-- ==== Sys2Proof/Word.lean ====
section
/-!
DEFINITION. The word, byte, register-index and CSR-address types (00_scope.md R9, R12).
-/
namespace Sys2Proof

/-- A register, address or datum: 32 bits (R9, R12). -/
abbrev Word := BitVec 32

/-- One byte of memory (10_state.md R60). -/
abbrev Byte := BitVec 8

/-- A general register's index: the 5-bit field of the instruction (10_state.md R20). -/
abbrev RegIdx := BitVec 5

/-- The address of a control and status register: 12 bits (R9). -/
abbrev CsrAddr := BitVec 12

end Sys2Proof
end

