-- ==== Sys2Proof/Syntax.lean ====
section
/-!
DEFINITION. The instructions: one constructor per row of spec/opcode_table.json, operands in the assembler's order (30_encoding.md R166).
An operand is held as the bits the manual names: a register index, a 12-bit immediate, a byte offset of 13 or 21 bits whose bit 0 is not encoded
(R135, R137), a 20-bit upper immediate, a 5-bit shift amount or unsigned immediate, a 12-bit CSR address.
-/
namespace Sys2Proof

/-- The 44 instructions of R150 and the six rows R160 names that the hardware does not admit. -/
inductive Instr where
  -- 41_integer_computational.md
  | lui (rd : RegIdx) (imm : BitVec 20)
  | auipc (rd : RegIdx) (imm : BitVec 20)
  -- 42_control_transfer.md
  | jal (rd : RegIdx) (offset : BitVec 21)
  | jalr (rd rs1 : RegIdx) (imm : BitVec 12)
  | beq (rs1 rs2 : RegIdx) (offset : BitVec 13)
  | bne (rs1 rs2 : RegIdx) (offset : BitVec 13)
  | blt (rs1 rs2 : RegIdx) (offset : BitVec 13)
  | bge (rs1 rs2 : RegIdx) (offset : BitVec 13)
  | bltu (rs1 rs2 : RegIdx) (offset : BitVec 13)
  | bgeu (rs1 rs2 : RegIdx) (offset : BitVec 13)
  -- 43_load_store.md
  | lb (rd rs1 : RegIdx) (imm : BitVec 12)
  | lh (rd rs1 : RegIdx) (imm : BitVec 12)
  | lw (rd rs1 : RegIdx) (imm : BitVec 12)
  | lbu (rd rs1 : RegIdx) (imm : BitVec 12)
  | lhu (rd rs1 : RegIdx) (imm : BitVec 12)
  | sb (rs2 rs1 : RegIdx) (imm : BitVec 12)
  | sh (rs2 rs1 : RegIdx) (imm : BitVec 12)
  | sw (rs2 rs1 : RegIdx) (imm : BitVec 12)
  -- 41_integer_computational.md, register and immediate
  | addi (rd rs1 : RegIdx) (imm : BitVec 12)
  | slti (rd rs1 : RegIdx) (imm : BitVec 12)
  | sltiu (rd rs1 : RegIdx) (imm : BitVec 12)
  | xori (rd rs1 : RegIdx) (imm : BitVec 12)
  | ori (rd rs1 : RegIdx) (imm : BitVec 12)
  | andi (rd rs1 : RegIdx) (imm : BitVec 12)
  | slli (rd rs1 : RegIdx) (shamt : BitVec 5)
  | srli (rd rs1 : RegIdx) (shamt : BitVec 5)
  | srai (rd rs1 : RegIdx) (shamt : BitVec 5)
  -- 41_integer_computational.md, register and register
  | add (rd rs1 rs2 : RegIdx)
  | sub (rd rs1 rs2 : RegIdx)
  | sll (rd rs1 rs2 : RegIdx)
  | slt (rd rs1 rs2 : RegIdx)
  | sltu (rd rs1 rs2 : RegIdx)
  | xor (rd rs1 rs2 : RegIdx)
  | srl (rd rs1 rs2 : RegIdx)
  | sra (rd rs1 rs2 : RegIdx)
  | or (rd rs1 rs2 : RegIdx)
  | and (rd rs1 rs2 : RegIdx)
  -- 44_system_csr.md
  | csrrw (rd : RegIdx) (csr : CsrAddr) (rs1 : RegIdx)
  | csrrs (rd : RegIdx) (csr : CsrAddr) (rs1 : RegIdx)
  | csrrc (rd : RegIdx) (csr : CsrAddr) (rs1 : RegIdx)
  | csrrwi (rd : RegIdx) (csr : CsrAddr) (uimm : BitVec 5)
  | csrrsi (rd : RegIdx) (csr : CsrAddr) (uimm : BitVec 5)
  | csrrci (rd : RegIdx) (csr : CsrAddr) (uimm : BitVec 5)
  | mret
  -- 44_system_csr.md section 4: not admitted, each raises IllegalInstruction
  | ecall
  | ebreak
  | wfi
  | sret
  | fence (fm pred succ : BitVec 4) (rs1 rd : RegIdx)
  | fenceI (fm pred succ : BitVec 4) (rs1 rd : RegIdx)
deriving DecidableEq, Repr

/-- The 44 instructions of R150: every constructor but the six that R160 does not admit. -/
def Instr.admitted : Instr → Bool
  | .ecall | .ebreak | .wfi | .sret | .fence .. | .fenceI .. => false
  | .lui .. | .auipc .. | .jal .. | .jalr .. | .beq .. | .bne .. | .blt .. | .bge .. | .bltu .. | .bgeu ..
  | .lb .. | .lh .. | .lw .. | .lbu .. | .lhu .. | .sb .. | .sh .. | .sw ..
  | .addi .. | .slti .. | .sltiu .. | .xori .. | .ori .. | .andi .. | .slli .. | .srli .. | .srai ..
  | .add .. | .sub .. | .sll .. | .slt .. | .sltu .. | .xor .. | .srl .. | .sra .. | .or .. | .and ..
  | .csrrw .. | .csrrs .. | .csrrc .. | .csrrwi .. | .csrrsi .. | .csrrci .. | .mret => true

end Sys2Proof
end

