-- ==== Sys2Proof/WellFormed.lean ====
section
/-!
DEFINITION. Which instruction terms the encoding can carry.
The operand types leave two checks: a B-immediate and a J-immediate are "Always even" (30_encoding.md R135, R137).
-/
namespace Sys2Proof

/-- A byte offset whose bit 0 is 0. -/
def evenOffset {n : Nat} (offset : BitVec n) : Bool := !offset.getLsbD 0

/-- The check each instruction needs. -/
def Instr.wf : Instr → Bool
  | .jal _ offset => evenOffset offset
  | .beq _ _ offset | .bne _ _ offset | .blt _ _ offset | .bge _ _ offset | .bltu _ _ offset | .bgeu _ _ offset => evenOffset offset
  | .lui .. | .auipc .. | .jalr ..
  | .lb .. | .lh .. | .lw .. | .lbu .. | .lhu .. | .sb .. | .sh .. | .sw ..
  | .addi .. | .slti .. | .sltiu .. | .xori .. | .ori .. | .andi .. | .slli .. | .srli .. | .srai ..
  | .add .. | .sub .. | .sll .. | .slt .. | .sltu .. | .xor .. | .srl .. | .sra .. | .or .. | .and ..
  | .csrrw .. | .csrrs .. | .csrrc .. | .csrrwi .. | .csrrsi .. | .csrrci .. | .mret
  | .ecall | .ebreak | .wfi | .sret | .fence .. | .fenceI .. => true

end Sys2Proof
end

