-- ==== Sys2Proof/Decode.lean ====
section
/-!
DEFINITION. The encoding (30_encoding.md): fields (R131), immediates (R133 to R140), the legality predicate (R158), the decoder, the encoder,
and the opcode table's own masks and matches (spec/opcode_table.json).
-/
namespace Sys2Proof

/-! ## Fields, at fixed positions in every format (R131) -/

def opcodeOf (w : Word) : BitVec 7 := w.extractLsb' 0 7
def rdOf (w : Word) : RegIdx := w.extractLsb' 7 5
def funct3Of (w : Word) : BitVec 3 := w.extractLsb' 12 3
def rs1Of (w : Word) : RegIdx := w.extractLsb' 15 5
def rs2Of (w : Word) : RegIdx := w.extractLsb' 20 5
def shamtOf (w : Word) : BitVec 5 := w.extractLsb' 20 5
def funct7Of (w : Word) : BitVec 7 := w.extractLsb' 25 7
def csrOf (w : Word) : CsrAddr := w.extractLsb' 20 12
def uimmOf (w : Word) : BitVec 5 := w.extractLsb' 15 5

/-! ## Immediates, before extension to 32 bits -/

/-- R133: `inst[31:20]`. -/
def iImmOf (w : Word) : BitVec 12 := w.extractLsb' 20 12

/-- R134: the S-immediate, `inst[31:25]` then `inst[11:7]`. -/
def sImmOf (w : Word) : BitVec 12 := w.extractLsb' 25 7 ++ w.extractLsb' 7 5

/-- R135: the B-immediate, `inst[31]`, `inst[7]`, `inst[30:25]`, `inst[11:8]`, 0. -/
def bImmOf (w : Word) : BitVec 13 :=
  w.extractLsb' 31 1 ++ w.extractLsb' 7 1 ++ w.extractLsb' 25 6 ++ w.extractLsb' 8 4 ++ 0#1

/-- R136: `inst[31:12]`. -/
def uImmOf (w : Word) : BitVec 20 := w.extractLsb' 12 20

/-- R137: the J-immediate, `inst[31]`, `inst[19:12]`, `inst[20]`, `inst[30:21]`, 0. -/
def jImmOf (w : Word) : BitVec 21 :=
  w.extractLsb' 31 1 ++ w.extractLsb' 12 8 ++ w.extractLsb' 20 1 ++ w.extractLsb' 21 10 ++ 0#1

/-- The U-immediate as a word: twelve zeros below it (R136). -/
def upperImm (imm : BitVec 20) : Word := imm ++ 0#12

/-! ## The opcode map (R142) -/

def opLoad : BitVec 7 := 0b0000011#7
def opOpImm : BitVec 7 := 0b0010011#7
def opAuipc : BitVec 7 := 0b0010111#7
def opStore : BitVec 7 := 0b0100011#7
def opOp : BitVec 7 := 0b0110011#7
def opLui : BitVec 7 := 0b0110111#7
def opBranch : BitVec 7 := 0b1100011#7
def opJalr : BitVec 7 := 0b1100111#7
def opJal : BitVec 7 := 0b1101111#7
def opSystem : BitVec 7 := 0b1110011#7

/-- MISC-MEM: no class of R142. It is named so that a decoder knows the name of what it refuses (R160, R383). -/
def opMiscMem : BitVec 7 := 0b0001111#7

/-- The single word that is MRET (R156). -/
def mretWord : Word := 0x30200073#32
def ecallWord : Word := 0x00000073#32
def ebreakWord : Word := 0x00100073#32
def wfiWord : Word := 0x10500073#32
def sretWord : Word := 0x10200073#32

/-- R158, from the raw bits alone: Decode raises IllegalInstruction exactly where this is false. -/
def legal (w : Word) : Bool :=
  let op := opcodeOf w
  let f3 := funct3Of w
  let f7 := funct7Of w
  op == opLui || op == opAuipc || op == opJal
  || (op == opJalr && f3 == 0b000#3)
  || (op == opBranch && (f3 == 0b000#3 || f3 == 0b001#3 || f3 == 0b100#3 || f3 == 0b101#3 || f3 == 0b110#3 || f3 == 0b111#3))
  || (op == opLoad && (f3 == 0b000#3 || f3 == 0b001#3 || f3 == 0b010#3 || f3 == 0b100#3 || f3 == 0b101#3))
  || (op == opStore && (f3 == 0b000#3 || f3 == 0b001#3 || f3 == 0b010#3))
  || (op == opOpImm && ((f3 != 0b001#3 && f3 != 0b101#3) || (f3 == 0b001#3 && f7 == 0b0000000#7)
        || (f3 == 0b101#3 && (f7 == 0b0000000#7 || f7 == 0b0100000#7))))
  || (op == opOp && (f7 == 0b0000000#7 || (f7 == 0b0100000#7 && (f3 == 0b000#3 || f3 == 0b101#3))))
  || (op == opSystem && (f3 == 0b001#3 || f3 == 0b010#3 || f3 == 0b011#3 || f3 == 0b101#3 || f3 == 0b110#3 || f3 == 0b111#3
        || w == mretWord))

/-! ## The decoder -/

/-- Why a word is no row of the opcode table, and so an illegal instruction (R158, R160, R162). `truncated` is of the byte form alone. -/
inductive DecodeError where
  | unknownOpcode (opcode : BitVec 7)
  | reservedFunct3 (opcode : BitVec 7) (funct3 : BitVec 3)
  | reservedFunct7 (opcode : BitVec 7) (funct3 : BitVec 3) (funct7 : BitVec 7)
  | reservedSystem (w : Word)
  | truncated
deriving DecidableEq, Repr

/-- R153. -/
def decodeBranch (w : Word) : Except DecodeError Instr :=
  match funct3Of w with
  | 0b000#3 => .ok (.beq (rs1Of w) (rs2Of w) (bImmOf w))
  | 0b001#3 => .ok (.bne (rs1Of w) (rs2Of w) (bImmOf w))
  | 0b100#3 => .ok (.blt (rs1Of w) (rs2Of w) (bImmOf w))
  | 0b101#3 => .ok (.bge (rs1Of w) (rs2Of w) (bImmOf w))
  | 0b110#3 => .ok (.bltu (rs1Of w) (rs2Of w) (bImmOf w))
  | 0b111#3 => .ok (.bgeu (rs1Of w) (rs2Of w) (bImmOf w))
  | f3 => .error (.reservedFunct3 opBranch f3)

/-- R154. -/
def decodeLoad (w : Word) : Except DecodeError Instr :=
  match funct3Of w with
  | 0b000#3 => .ok (.lb (rdOf w) (rs1Of w) (iImmOf w))
  | 0b001#3 => .ok (.lh (rdOf w) (rs1Of w) (iImmOf w))
  | 0b010#3 => .ok (.lw (rdOf w) (rs1Of w) (iImmOf w))
  | 0b100#3 => .ok (.lbu (rdOf w) (rs1Of w) (iImmOf w))
  | 0b101#3 => .ok (.lhu (rdOf w) (rs1Of w) (iImmOf w))
  | f3 => .error (.reservedFunct3 opLoad f3)

/-- R155. -/
def decodeStore (w : Word) : Except DecodeError Instr :=
  match funct3Of w with
  | 0b000#3 => .ok (.sb (rs2Of w) (rs1Of w) (sImmOf w))
  | 0b001#3 => .ok (.sh (rs2Of w) (rs1Of w) (sImmOf w))
  | 0b010#3 => .ok (.sw (rs2Of w) (rs1Of w) (sImmOf w))
  | f3 => .error (.reservedFunct3 opStore f3)

/-- R151. -/
def decodeOpImm (w : Word) : Except DecodeError Instr :=
  match funct3Of w with
  | 0b000#3 => .ok (.addi (rdOf w) (rs1Of w) (iImmOf w))
  | 0b010#3 => .ok (.slti (rdOf w) (rs1Of w) (iImmOf w))
  | 0b011#3 => .ok (.sltiu (rdOf w) (rs1Of w) (iImmOf w))
  | 0b100#3 => .ok (.xori (rdOf w) (rs1Of w) (iImmOf w))
  | 0b110#3 => .ok (.ori (rdOf w) (rs1Of w) (iImmOf w))
  | 0b111#3 => .ok (.andi (rdOf w) (rs1Of w) (iImmOf w))
  | 0b001#3 =>
    if funct7Of w = 0b0000000#7 then .ok (.slli (rdOf w) (rs1Of w) (shamtOf w))
    else .error (.reservedFunct7 opOpImm 0b001#3 (funct7Of w))
  | _ =>
    if funct7Of w = 0b0000000#7 then .ok (.srli (rdOf w) (rs1Of w) (shamtOf w))
    else if funct7Of w = 0b0100000#7 then .ok (.srai (rdOf w) (rs1Of w) (shamtOf w))
    else .error (.reservedFunct7 opOpImm 0b101#3 (funct7Of w))

/-- R152. -/
def decodeOp (w : Word) : Except DecodeError Instr :=
  if funct7Of w = 0b0000000#7 then
    match funct3Of w with
    | 0b000#3 => .ok (.add (rdOf w) (rs1Of w) (rs2Of w))
    | 0b001#3 => .ok (.sll (rdOf w) (rs1Of w) (rs2Of w))
    | 0b010#3 => .ok (.slt (rdOf w) (rs1Of w) (rs2Of w))
    | 0b011#3 => .ok (.sltu (rdOf w) (rs1Of w) (rs2Of w))
    | 0b100#3 => .ok (.xor (rdOf w) (rs1Of w) (rs2Of w))
    | 0b101#3 => .ok (.srl (rdOf w) (rs1Of w) (rs2Of w))
    | 0b110#3 => .ok (.or (rdOf w) (rs1Of w) (rs2Of w))
    | _ => .ok (.and (rdOf w) (rs1Of w) (rs2Of w))
  else if funct7Of w = 0b0100000#7 then
    match funct3Of w with
    | 0b000#3 => .ok (.sub (rdOf w) (rs1Of w) (rs2Of w))
    | 0b101#3 => .ok (.sra (rdOf w) (rs1Of w) (rs2Of w))
    | f3 => .error (.reservedFunct7 opOp f3 0b0100000#7)
  else .error (.reservedFunct7 opOp (funct3Of w) (funct7Of w))

/-- R156, with the named words of R160 that the hardware does not admit. -/
def decodeSystem (w : Word) : Except DecodeError Instr :=
  match funct3Of w with
  | 0b001#3 => .ok (.csrrw (rdOf w) (csrOf w) (rs1Of w))
  | 0b010#3 => .ok (.csrrs (rdOf w) (csrOf w) (rs1Of w))
  | 0b011#3 => .ok (.csrrc (rdOf w) (csrOf w) (rs1Of w))
  | 0b101#3 => .ok (.csrrwi (rdOf w) (csrOf w) (uimmOf w))
  | 0b110#3 => .ok (.csrrsi (rdOf w) (csrOf w) (uimmOf w))
  | 0b111#3 => .ok (.csrrci (rdOf w) (csrOf w) (uimmOf w))
  | 0b000#3 =>
    if w = mretWord then .ok .mret
    else if w = ecallWord then .ok .ecall
    else if w = ebreakWord then .ok .ebreak
    else if w = wfiWord then .ok .wfi
    else if w = sretWord then .ok .sret
    else .error (.reservedSystem w)
  | f3 => .error (.reservedFunct3 opSystem f3)

/-- The two MISC-MEM rows of the table (R383). -/
def decodeMiscMem (w : Word) : Except DecodeError Instr :=
  match funct3Of w with
  | 0b000#3 => .ok (.fence (w.extractLsb' 28 4) (w.extractLsb' 24 4) (w.extractLsb' 20 4) (rs1Of w) (rdOf w))
  | 0b001#3 => .ok (.fenceI (w.extractLsb' 28 4) (w.extractLsb' 24 4) (w.extractLsb' 20 4) (rs1Of w) (rdOf w))
  | f3 => .error (.reservedFunct3 opMiscMem f3)

/-- JALR requires `funct3 = 000` (R156). -/
def decodeJalr (w : Word) : Except DecodeError Instr :=
  if funct3Of w = 0b000#3 then .ok (.jalr (rdOf w) (rs1Of w) (iImmOf w))
  else .error (.reservedFunct3 opJalr (funct3Of w))

/-- The instruction a word is (R142, R151 to R156), or by name why it is no row of the table. Total. -/
def decode (w : Word) : Except DecodeError Instr :=
  if opcodeOf w = opLui then .ok (.lui (rdOf w) (uImmOf w))
  else if opcodeOf w = opAuipc then .ok (.auipc (rdOf w) (uImmOf w))
  else if opcodeOf w = opJal then .ok (.jal (rdOf w) (jImmOf w))
  else if opcodeOf w = opJalr then decodeJalr w
  else if opcodeOf w = opBranch then decodeBranch w
  else if opcodeOf w = opLoad then decodeLoad w
  else if opcodeOf w = opStore then decodeStore w
  else if opcodeOf w = opOpImm then decodeOpImm w
  else if opcodeOf w = opOp then decodeOp w
  else if opcodeOf w = opSystem then decodeSystem w
  else if opcodeOf w = opMiscMem then decodeMiscMem w
  else .error (.unknownOpcode (opcodeOf w))

/-- A word from its four bytes in address order: lane 0 is bits [31:24] (20_memory.md R90, R93). -/
def wordOfLanes (b0 b1 b2 b3 : Byte) : Word := b0 ++ b1 ++ b2 ++ b3

/-- The byte in lane `k` of a word (R90). -/
def laneOf (w : Word) (k : Nat) : Byte := w.extractLsb' (24 - 8 * k) 8

/-- The decoder over bytes in address order: one instruction and the rest. Total. -/
def decodeBytes : List Byte → Except DecodeError (Instr × List Byte)
  | b0 :: b1 :: b2 :: b3 :: rest =>
    match decode (wordOfLanes b0 b1 b2 b3) with
    | .ok i => .ok (i, rest)
    | .error e => .error e
  | _ => .error .truncated

/-- The host's question: what the decoder reads from the table row's bits `w` (30_encoding.md R130: a word is 32 bits; the bits
above `nbits` are 0), laid out as the bus stores a word, lane 0 at the lowest address. -/
def decodeTableWord (nbits w : Nat) : Option Instr :=
  let word : Word := BitVec.ofNat 32 (w % 2 ^ nbits)
  match decodeBytes [laneOf word 0, laneOf word 1, laneOf word 2, laneOf word 3] with
  | .ok (i, _) => some i
  | .error _ => none

/-! ## The encoder, one function per format (R132) -/

def rWord (f7 : BitVec 7) (rs2 rs1 : RegIdx) (f3 : BitVec 3) (rd : RegIdx) (op : BitVec 7) : Word :=
  f7 ++ rs2 ++ rs1 ++ f3 ++ rd ++ op

def iWord (imm : BitVec 12) (rs1 : RegIdx) (f3 : BitVec 3) (rd : RegIdx) (op : BitVec 7) : Word :=
  imm ++ rs1 ++ f3 ++ rd ++ op

def sWord (imm : BitVec 12) (rs2 rs1 : RegIdx) (f3 : BitVec 3) (op : BitVec 7) : Word :=
  imm.extractLsb' 5 7 ++ rs2 ++ rs1 ++ f3 ++ imm.extractLsb' 0 5 ++ op

def bWord (offset : BitVec 13) (rs2 rs1 : RegIdx) (f3 : BitVec 3) (op : BitVec 7) : Word :=
  offset.extractLsb' 12 1 ++ offset.extractLsb' 5 6 ++ rs2 ++ rs1 ++ f3 ++ offset.extractLsb' 1 4 ++ offset.extractLsb' 11 1 ++ op

def uWord (imm : BitVec 20) (rd : RegIdx) (op : BitVec 7) : Word := imm ++ rd ++ op

def jWord (offset : BitVec 21) (rd : RegIdx) (op : BitVec 7) : Word :=
  offset.extractLsb' 20 1 ++ offset.extractLsb' 1 10 ++ offset.extractLsb' 11 1 ++ offset.extractLsb' 12 8 ++ rd ++ op

def fenceWord (fm pred succ : BitVec 4) (rs1 : RegIdx) (f3 : BitVec 3) (rd : RegIdx) : Word :=
  fm ++ pred ++ succ ++ rs1 ++ f3 ++ rd ++ opMiscMem

/-- The word of a well-formed instruction (R142, R151 to R156). -/
def encode : Instr → Word
  | .lui rd imm => uWord imm rd opLui
  | .auipc rd imm => uWord imm rd opAuipc
  | .jal rd offset => jWord offset rd opJal
  | .jalr rd rs1 imm => iWord imm rs1 0b000#3 rd opJalr
  | .beq rs1 rs2 offset => bWord offset rs2 rs1 0b000#3 opBranch
  | .bne rs1 rs2 offset => bWord offset rs2 rs1 0b001#3 opBranch
  | .blt rs1 rs2 offset => bWord offset rs2 rs1 0b100#3 opBranch
  | .bge rs1 rs2 offset => bWord offset rs2 rs1 0b101#3 opBranch
  | .bltu rs1 rs2 offset => bWord offset rs2 rs1 0b110#3 opBranch
  | .bgeu rs1 rs2 offset => bWord offset rs2 rs1 0b111#3 opBranch
  | .lb rd rs1 imm => iWord imm rs1 0b000#3 rd opLoad
  | .lh rd rs1 imm => iWord imm rs1 0b001#3 rd opLoad
  | .lw rd rs1 imm => iWord imm rs1 0b010#3 rd opLoad
  | .lbu rd rs1 imm => iWord imm rs1 0b100#3 rd opLoad
  | .lhu rd rs1 imm => iWord imm rs1 0b101#3 rd opLoad
  | .sb rs2 rs1 imm => sWord imm rs2 rs1 0b000#3 opStore
  | .sh rs2 rs1 imm => sWord imm rs2 rs1 0b001#3 opStore
  | .sw rs2 rs1 imm => sWord imm rs2 rs1 0b010#3 opStore
  | .addi rd rs1 imm => iWord imm rs1 0b000#3 rd opOpImm
  | .slti rd rs1 imm => iWord imm rs1 0b010#3 rd opOpImm
  | .sltiu rd rs1 imm => iWord imm rs1 0b011#3 rd opOpImm
  | .xori rd rs1 imm => iWord imm rs1 0b100#3 rd opOpImm
  | .ori rd rs1 imm => iWord imm rs1 0b110#3 rd opOpImm
  | .andi rd rs1 imm => iWord imm rs1 0b111#3 rd opOpImm
  | .slli rd rs1 shamt => rWord 0b0000000#7 shamt rs1 0b001#3 rd opOpImm
  | .srli rd rs1 shamt => rWord 0b0000000#7 shamt rs1 0b101#3 rd opOpImm
  | .srai rd rs1 shamt => rWord 0b0100000#7 shamt rs1 0b101#3 rd opOpImm
  | .add rd rs1 rs2 => rWord 0b0000000#7 rs2 rs1 0b000#3 rd opOp
  | .sub rd rs1 rs2 => rWord 0b0100000#7 rs2 rs1 0b000#3 rd opOp
  | .sll rd rs1 rs2 => rWord 0b0000000#7 rs2 rs1 0b001#3 rd opOp
  | .slt rd rs1 rs2 => rWord 0b0000000#7 rs2 rs1 0b010#3 rd opOp
  | .sltu rd rs1 rs2 => rWord 0b0000000#7 rs2 rs1 0b011#3 rd opOp
  | .xor rd rs1 rs2 => rWord 0b0000000#7 rs2 rs1 0b100#3 rd opOp
  | .srl rd rs1 rs2 => rWord 0b0000000#7 rs2 rs1 0b101#3 rd opOp
  | .sra rd rs1 rs2 => rWord 0b0100000#7 rs2 rs1 0b101#3 rd opOp
  | .or rd rs1 rs2 => rWord 0b0000000#7 rs2 rs1 0b110#3 rd opOp
  | .and rd rs1 rs2 => rWord 0b0000000#7 rs2 rs1 0b111#3 rd opOp
  | .csrrw rd csr rs1 => iWord csr rs1 0b001#3 rd opSystem
  | .csrrs rd csr rs1 => iWord csr rs1 0b010#3 rd opSystem
  | .csrrc rd csr rs1 => iWord csr rs1 0b011#3 rd opSystem
  | .csrrwi rd csr uimm => iWord csr uimm 0b101#3 rd opSystem
  | .csrrsi rd csr uimm => iWord csr uimm 0b110#3 rd opSystem
  | .csrrci rd csr uimm => iWord csr uimm 0b111#3 rd opSystem
  | .mret => mretWord
  | .ecall => ecallWord
  | .ebreak => ebreakWord
  | .wfi => wfiWord
  | .sret => sretWord
  | .fence fm pred succ rs1 rd => fenceWord fm pred succ rs1 0b000#3 rd
  | .fenceI fm pred succ rs1 rd => fenceWord fm pred succ rs1 0b001#3 rd

/-! ## The opcode table itself -/

/-- One row of spec/opcode_table.json: which bits are fixed, and to what. -/
structure TableRow where
  mask : Word
  value : Word
deriving DecidableEq, Repr

/-- Each constructor's row, its mask and match copied from the table (not computed from the encoder). -/
def Instr.tableRow : Instr → TableRow
  | .lui .. => ⟨0x0000007f#32, 0x00000037#32⟩
  | .auipc .. => ⟨0x0000007f#32, 0x00000017#32⟩
  | .jal .. => ⟨0x0000007f#32, 0x0000006f#32⟩
  | .jalr .. => ⟨0x0000707f#32, 0x00000067#32⟩
  | .beq .. => ⟨0x0000707f#32, 0x00000063#32⟩
  | .bne .. => ⟨0x0000707f#32, 0x00001063#32⟩
  | .blt .. => ⟨0x0000707f#32, 0x00004063#32⟩
  | .bge .. => ⟨0x0000707f#32, 0x00005063#32⟩
  | .bltu .. => ⟨0x0000707f#32, 0x00006063#32⟩
  | .bgeu .. => ⟨0x0000707f#32, 0x00007063#32⟩
  | .lb .. => ⟨0x0000707f#32, 0x00000003#32⟩
  | .lh .. => ⟨0x0000707f#32, 0x00001003#32⟩
  | .lw .. => ⟨0x0000707f#32, 0x00002003#32⟩
  | .lbu .. => ⟨0x0000707f#32, 0x00004003#32⟩
  | .lhu .. => ⟨0x0000707f#32, 0x00005003#32⟩
  | .sb .. => ⟨0x0000707f#32, 0x00000023#32⟩
  | .sh .. => ⟨0x0000707f#32, 0x00001023#32⟩
  | .sw .. => ⟨0x0000707f#32, 0x00002023#32⟩
  | .addi .. => ⟨0x0000707f#32, 0x00000013#32⟩
  | .slti .. => ⟨0x0000707f#32, 0x00002013#32⟩
  | .sltiu .. => ⟨0x0000707f#32, 0x00003013#32⟩
  | .xori .. => ⟨0x0000707f#32, 0x00004013#32⟩
  | .ori .. => ⟨0x0000707f#32, 0x00006013#32⟩
  | .andi .. => ⟨0x0000707f#32, 0x00007013#32⟩
  | .slli .. => ⟨0xfe00707f#32, 0x00001013#32⟩
  | .srli .. => ⟨0xfe00707f#32, 0x00005013#32⟩
  | .srai .. => ⟨0xfe00707f#32, 0x40005013#32⟩
  | .add .. => ⟨0xfe00707f#32, 0x00000033#32⟩
  | .sub .. => ⟨0xfe00707f#32, 0x40000033#32⟩
  | .sll .. => ⟨0xfe00707f#32, 0x00001033#32⟩
  | .slt .. => ⟨0xfe00707f#32, 0x00002033#32⟩
  | .sltu .. => ⟨0xfe00707f#32, 0x00003033#32⟩
  | .xor .. => ⟨0xfe00707f#32, 0x00004033#32⟩
  | .srl .. => ⟨0xfe00707f#32, 0x00005033#32⟩
  | .sra .. => ⟨0xfe00707f#32, 0x40005033#32⟩
  | .or .. => ⟨0xfe00707f#32, 0x00006033#32⟩
  | .and .. => ⟨0xfe00707f#32, 0x00007033#32⟩
  | .csrrw .. => ⟨0x0000707f#32, 0x00001073#32⟩
  | .csrrs .. => ⟨0x0000707f#32, 0x00002073#32⟩
  | .csrrc .. => ⟨0x0000707f#32, 0x00003073#32⟩
  | .csrrwi .. => ⟨0x0000707f#32, 0x00005073#32⟩
  | .csrrsi .. => ⟨0x0000707f#32, 0x00006073#32⟩
  | .csrrci .. => ⟨0x0000707f#32, 0x00007073#32⟩
  | .mret => ⟨0xffffffff#32, 0x30200073#32⟩
  | .ecall => ⟨0xffffffff#32, 0x00000073#32⟩
  | .ebreak => ⟨0xffffffff#32, 0x00100073#32⟩
  | .wfi => ⟨0xffffffff#32, 0x10500073#32⟩
  | .sret => ⟨0xffffffff#32, 0x10200073#32⟩
  | .fence .. => ⟨0x0000707f#32, 0x0000000f#32⟩
  | .fenceI .. => ⟨0x0000707f#32, 0x0000100f#32⟩

end Sys2Proof
end

