-- ==== Sys2Proof/Config.lean ====
section
/-!
DEFINITION. The machine's fixed values (00_scope.md R9) and its open parameters (R10).
The open parameters that a running machine depends on are one plain structure, Config, which State carries and no step changes:
a theorem about every state is then a theorem about every admissible value of them (R10; PRESUMED, log 7).
-/
namespace Sys2Proof

/-- `BOOT_VECTOR`, the start of ROM (R9). -/
def bootVector : Word := 0x10000000#32

/-- First byte of the ROM window (R9, 20_memory.md R81). -/
def romBase : Nat := 0x10000000

/-- First byte of the RAM window (R9, R81). -/
def ramBase : Nat := 0x20000000

/-- Size of each window: 256 MiB (R81, R82). -/
def windowSize : Nat := 0x10000000

/-- Offset of the exception entries in the vector table (R9, 60_exceptions.md R421). -/
def exceptionTableOffset : Word := 48#32

/-- The open parameters that a running machine depends on (R10). The two sizes are powers of two, kept as their exponents. -/
structure Config where
  /-- `ROM_SIZE = 2 ^ romSizeLog2` bytes -/
  romSizeLog2 : Nat
  /-- `RAM_SIZE = 2 ^ ramSizeLog2` bytes -/
  ramSizeLog2 : Nat
  /-- `MSTATUS_MASK` -/
  mstatusMask : Word
deriving DecidableEq, Repr

/-- `ROM_SIZE` in bytes. -/
def Config.romSize (c : Config) : Nat := 2 ^ c.romSizeLog2

/-- `RAM_SIZE` in bytes. -/
def Config.ramSize (c : Config) : Nat := 2 ^ c.ramSizeLog2

/-- The admissible values: each size a power of two from 4 to 2^28 (R10). -/
def Config.wf (c : Config) : Bool :=
  decide (2 ≤ c.romSizeLog2) && decide (c.romSizeLog2 ≤ 28) && decide (2 ≤ c.ramSizeLog2) && decide (c.ramSizeLog2 ≤ 28)

/-- The defaults the spec suggests: 1 MiB of ROM, 4 MiB of RAM, mask 0x88 (R10; PRESUMED, log 7). -/
def Config.default : Config := ⟨20, 22, 0x00000088#32⟩

end Sys2Proof
end

