-- ==== Sys2Proof/Machine/State.lean ====
section
/-!
DEFINITION. The machine's state, whole (10_state.md): general registers, the CSR bank, memory, the four stage banks, the Trap Controller bank,
the orchestrator bank, and the open parameters. Every register is held by its committed value; its staged copy equals it at every cycle
boundary and exists inside a cycle only (40_pipeline.md R180, Machine/TwoPhase.lean; DEDUCED, log 3). Also the two reasons a step can stop.
-/
namespace Sys2Proof.Machine

open Sys2Proof

/-! ## Memory (20_memory.md) -/

/-- The storage of both devices: byte cells at their home addresses (Machine/Ops.lean), in one canonical form (`Memory.wf`). -/
abbrev Memory := List Host.Cell

/-- What an unlisted address reads as: in the ROM window a byte of the fill word 0xFFFFFFFF (R86), elsewhere 0
(RAM after power-on: DESIGN CHOICE, unsafe, log 4). -/
def Memory.unlisted (a : Nat) : Byte :=
  if romBase ≤ a ∧ a < ramBase then 0xFF#8 else 0x00#8

/-- The canonical form, above a bound: addresses strictly rising from `least`, no entry equal to what an unlisted address reads as. -/
def Memory.wfFrom (least : Nat) : Memory → Bool
  | [] => true
  | (a, b) :: rest => decide (least ≤ a) && (b != Memory.unlisted a) && Memory.wfFrom (a + 1) rest

/-- The canonical form. -/
def Memory.wf (m : Memory) : Bool := Memory.wfFrom 0 m

/-! ## Registers -/

/-- The register file: cell `i` is `x_i` (R20). Cell 0 is never written and never read (R21, Machine/Ops.lean). -/
abbrev RegFile := Vector Word 32

/-- The CSR bank (R32). The four identification registers are constants, not state (R53). -/
structure CsrFile where
  cycles : BitVec 64
  instret : BitVec 64
  mstatus : Word
  misa : Word
  mie : Word
  mtvec : Word
  mscratch : Word
  mepc : Word
  mcause : Word
  mtval : Word
  mip : Word
deriving DecidableEq, Repr

/-- The Fetch bank `IF` (R63). -/
structure FetchBank where
  pc : Word
  pcPlus4 : Word
  instruction : Word
deriving DecidableEq, Repr

/-- The Decode bank `DE` (R64). -/
structure DecodeBank where
  instruction : Word
  pc : Word
  pcPlus4 : Word
  opcode : BitVec 7
  rd : RegIdx
  funct3 : BitVec 3
  rs1Addr : RegIdx
  rs2Addr : RegIdx
  shamt : BitVec 5
  funct7 : BitVec 7
  rs1 : Word
  rs2 : Word
  imm32 : Word
  isAluOperation : Bool
  isStore : Bool
  isLoad : Bool
  isLUI : Bool
  isAUIPC : Bool
  isBranch : Bool
  isJAL : Bool
  isJump : Bool
  isSystem : Bool
  csrAddress : CsrAddr
  csrSource : Word
  csrShouldWrite : Bool
  csrShouldRead : Bool
  mret : Bool
  trap : Bool
  mcause : Word
  mepc : Word
  mtval : Word
deriving DecidableEq, Repr

/-- The Execute bank `EX` (R65). -/
structure ExecuteBank where
  aluResult : Word
  branchAddress : Word
  branchValid : Bool
  rd : RegIdx
  rs1 : Word
  rs2 : Word
  imm32 : Word
  funct3 : BitVec 3
  pc : Word
  pcPlus4 : Word
  instruction : Word
  isAluOperation : Bool
  isStore : Bool
  isLoad : Bool
  isLUI : Bool
  isAUIPC : Bool
  isJump : Bool
  isSystem : Bool
  csrAddress : CsrAddr
  csrSource : Word
  csrShouldWrite : Bool
  csrShouldRead : Bool
deriving DecidableEq, Repr

/-- The MemoryAccess bank `MEM` (R66). WriteBack has none. -/
structure MemoryBank where
  writebackValue : Word
  writebackValueValid : Bool
  rd : RegIdx
  pc : Word
  trap : Bool
  mcause : Word
  mepc : Word
  mtval : Word
deriving DecidableEq, Repr

/-- The states of the Trap Controller (R67, 60_exceptions.md R418). -/
inductive TrapState where
  | idle
  | setCsrAndComputeVector
  | setProgramCounter
  | returnFromTrap
deriving DecidableEq, Repr

/-- The Trap Controller bank `TR`: its state, the latched trap context (R416), the pending program counter (R67). -/
structure TrapBank where
  state : TrapState
  mepc : Word
  mcause : Word
  mtval : Word
  pcToSet : Word
deriving DecidableEq, Repr

/-- The orchestrator's mode (R68). FATAL is no mode (R68). -/
inductive Mode where
  | pipeline
  | trap
deriving DecidableEq, Repr

/-- The stage the orchestrator evaluates next (R68, 40_pipeline.md R196). -/
inductive Slot where
  | F
  | D
  | E
  | M
  | W
deriving DecidableEq, Repr

/-- The orchestrator bank `ORCH` (R68). -/
structure OrchBank where
  mode : Mode
  slot : Slot
deriving DecidableEq, Repr

/-! ## The declared defaults, taken at reset and at a flush (R63 to R68) -/

def FetchBank.default : FetchBank := ⟨bootVector, bootVector, bootVector⟩

def DecodeBank.default : DecodeBank where
  instruction := 0
  pc := 0
  pcPlus4 := 0
  opcode := 0
  rd := 0
  funct3 := 0
  rs1Addr := 0
  rs2Addr := 0
  shamt := 0
  funct7 := 0
  rs1 := 0
  rs2 := 0
  imm32 := 0
  isAluOperation := false
  isStore := false
  isLoad := false
  isLUI := false
  isAUIPC := false
  isBranch := false
  isJAL := false
  isJump := false
  isSystem := false
  csrAddress := 0
  csrSource := 0
  csrShouldWrite := false
  csrShouldRead := false
  mret := false
  trap := false
  mcause := 0
  mepc := 0
  mtval := 0

def ExecuteBank.default : ExecuteBank where
  aluResult := 0
  branchAddress := 0
  branchValid := false
  rd := 0
  rs1 := 0
  rs2 := 0
  imm32 := 0
  funct3 := 0
  pc := 0
  pcPlus4 := 0
  instruction := 0
  isAluOperation := false
  isStore := false
  isLoad := false
  isLUI := false
  isAUIPC := false
  isJump := false
  isSystem := false
  csrAddress := 0
  csrSource := 0
  csrShouldWrite := false
  csrShouldRead := false

def MemoryBank.default : MemoryBank := ⟨0, false, 0, 0, false, 0, 0, 0⟩

def TrapBank.default : TrapBank := ⟨.idle, 0, 0, 0, 0⟩

def OrchBank.default : OrchBank := ⟨.pipeline, .F⟩

/-- The CSR bank at reset with an empty `CSR_BOOT` (R72). -/
def CsrFile.default : CsrFile := ⟨0, 0, 0, 0x40000100#32, 0, 0, 0, 0, 0, 0, 0⟩

/-! ## The state -/

/-- Everything the spec gives the machine (10_state.md), and the parameters it runs under (00_scope.md R10). -/
structure State where
  cfg : Config
  regs : RegFile
  csr : CsrFile
  mem : Memory
  ifBank : FetchBank
  deBank : DecodeBank
  exBank : ExecuteBank
  memBank : MemoryBank
  trBank : TrapBank
  orch : OrchBank
deriving DecidableEq, Repr

/-- The machine right after reset (R72, 70_reset_and_hazards.md R461), with the default parameters, an empty `ROM_IMAGE`, an empty `CSR_BOOT`
and no RAM byte listed (log 4, 6, 7, 8). Machine/Boot.lean builds the state for any other parameters. -/
def State.reset : State where
  cfg := Config.default
  regs := Vector.replicate 32 0
  csr := CsrFile.default
  mem := []
  ifBank := FetchBank.default
  deBank := DecodeBank.default
  exBank := ExecuteBank.default
  memBank := MemoryBank.default
  trBank := TrapBank.default
  orch := OrchBank.default

/-! ## Why a step stops -/

/-- The faults. -/
inductive Fault where
  /-- FATAL (60_exceptions.md R428): the Trap Controller's read of the vector table hit an unmapped address. Raised by `cycle` (and by `step`
  through it) in the `SetCsrAndComputeVector` state, in which the machine then stands; only reset leaves it. Safe: the spec ends the run there. -/
  | fatalVectorRead
deriving DecidableEq, Repr

/-- The refusals. -/
inductive Refusal where
  /-- An instruction that has no meaning yet, by its mnemonic in spec/opcode_table.json. Raised by `exec`'s arms only. Safe: the run stops. -/
  | notModelled (mnemonic : String)
deriving DecidableEq, Repr

/-- What an instruction or a cycle answers. -/
abbrev Result := Host.Outcome State Fault Refusal

end Sys2Proof.Machine
end

