-- ==== Sys2Proof/Machine/Operands.lean ====
section
/-!
DEFINITION. The operand forms: registers (10_state.md R20, R21), immediates extended to 32 bits (30_encoding.md R133 to R138), shift amounts (R139).
-/
namespace Sys2Proof.Machine

open Sys2Proof

/-- A read of the register file: index 0 reads 0 (10_state.md R21). -/
def RegFile.read (regs : RegFile) (r : RegIdx) : Word :=
  if r = 0 then 0 else regs[r.toNat]'r.isLt

/-- A write of the register file: a write to index 0 is dropped (R21, 40_pipeline.md R250). -/
def RegFile.write (regs : RegFile) (r : RegIdx) (v : Word) : RegFile :=
  if r = 0 then regs else regs.set r.toNat v r.isLt

/-- `x[r]`. -/
def State.reg (s : State) (r : RegIdx) : Word := RegFile.read s.regs r

/-- `sext_12` of the I- or S-immediate (R133, R134). -/
def imm12 (imm : BitVec 12) : Word := imm.signExtend 32

/-- `sext_13` of the B-immediate (R135). -/
def branchOffset (offset : BitVec 13) : Word := offset.signExtend 32

/-- `sext_21` of the J-immediate (R137). -/
def jumpOffset (offset : BitVec 21) : Word := offset.signExtend 32

/-- `zext_5` of the CSR immediate (R138). -/
def csrImm (uimm : BitVec 5) : Word := uimm.setWidth 32

/-- The amount of a register-form shift: the low five bits (R139). -/
def shiftAmount (v : Word) : BitVec 5 := v.extractLsb' 0 5

/-- The shifts, by a five-bit amount: zeros from the right, zeros from the left, copies of bit 31 from the left (00_scope.md R12). -/
def shiftLeft (a : Word) (sh : BitVec 5) : Word := a <<< sh.toNat
def shiftRightLogical (a : Word) (sh : BitVec 5) : Word := a >>> sh.toNat
def shiftRightArith (a : Word) (sh : BitVec 5) : Word := a.sshiftRight sh.toNat

/-- Effective address of a load or store: `x[rs1] + sext_12(imm)` modulo 2^32 (43_load_store.md R330). -/
def State.effectiveAddress (s : State) (rs1 : RegIdx) (imm : BitVec 12) : Word := s.reg rs1 + imm12 imm

end Sys2Proof.Machine
end

