-- ==== Sys2Proof/Machine/Csr.lean ====
section
/-!
DEFINITION. The CSR Interface (10_state.md R32 to R55, 44_system_csr.md R360 to R363).
-/
namespace Sys2Proof.Machine

open Sys2Proof

/-- The nineteen addresses the CSR Interface recognises, by name (10_state.md R32). -/
inductive Csr where
  | cycle
  | time
  | instret
  | cycleh
  | timeh
  | instreth
  | mstatus
  | misa
  | mie
  | mtvec
  | mscratch
  | mepc
  | mcause
  | mtval
  | mip
  | mvendorid
  | marchid
  | mimpid
  | mhartid
deriving DecidableEq, Repr

/-- The address of each (R32). -/
def csrAddress : Csr → CsrAddr
  | .cycle => 0xC00#12
  | .time => 0xC01#12
  | .instret => 0xC02#12
  | .cycleh => 0xC80#12
  | .timeh => 0xC81#12
  | .instreth => 0xC82#12
  | .mstatus => 0x300#12
  | .misa => 0x301#12
  | .mie => 0x304#12
  | .mtvec => 0x305#12
  | .mscratch => 0x340#12
  | .mepc => 0x341#12
  | .mcause => 0x342#12
  | .mtval => 0x343#12
  | .mip => 0x344#12
  | .mvendorid => 0xF11#12
  | .marchid => 0xF12#12
  | .mimpid => 0xF13#12
  | .mhartid => 0xF14#12

/-- The CSR at an address; `none` is an unknown CSR (R54). -/
def csrAt (a : CsrAddr) : Option Csr :=
  match a with
  | 0xC00#12 => some .cycle
  | 0xC01#12 => some .time
  | 0xC02#12 => some .instret
  | 0xC80#12 => some .cycleh
  | 0xC81#12 => some .timeh
  | 0xC82#12 => some .instreth
  | 0x300#12 => some .mstatus
  | 0x301#12 => some .misa
  | 0x304#12 => some .mie
  | 0x305#12 => some .mtvec
  | 0x340#12 => some .mscratch
  | 0x341#12 => some .mepc
  | 0x342#12 => some .mcause
  | 0x343#12 => some .mtval
  | 0x344#12 => some .mip
  | 0xF11#12 => some .mvendorid
  | 0xF12#12 => some .marchid
  | 0xF13#12 => some .mimpid
  | 0xF14#12 => some .mhartid
  | _ => none

/-- Address bits [11:10] = 11: read-only to CSR instructions (R33). -/
def csrReadOnly (a : CsrAddr) : Bool := a.extractLsb' 10 2 == 0b11#2

/-- Address bits [9:8] are the lowest privilege that may access it; the core is always in machine mode, privilege 3 (R33, 60_exceptions.md R444). -/
def csrPrivilegeOk (a : CsrAddr) : Bool := decide ((a.extractLsb' 8 2).toNat ≤ 3)

/-- The access checks, in their order (44_system_csr.md R361): unknown, then a write of a read-only address; the privilege check always passes. -/
def csrAccessOk (a : CsrAddr) (write : Bool) : Bool :=
  (csrAt a).isSome && !(write && csrReadOnly a) && csrPrivilegeOk a

/-- The value of a named CSR (R362). -/
def csrValue (f : CsrFile) : Csr → Word
  | .cycle | .time => f.cycles.extractLsb' 0 32
  | .cycleh | .timeh => f.cycles.extractLsb' 32 32
  | .instret => f.instret.extractLsb' 0 32
  | .instreth => f.instret.extractLsb' 32 32
  | .mstatus => f.mstatus
  | .misa => f.misa
  | .mie => f.mie
  | .mtvec => f.mtvec
  | .mscratch => f.mscratch
  | .mepc => f.mepc
  | .mcause => f.mcause
  | .mtval => f.mtval
  | .mip => f.mip
  | .mvendorid | .marchid | .mimpid | .mhartid => 0

/-- `CSRread` (R362). An unknown address never reaches it: `csrAccessOk` is tested first. -/
def csrRead (f : CsrFile) (a : CsrAddr) : Word :=
  match csrAt a with
  | some c => csrValue f c
  | none => 0

/-- The CSR bank after a write of a named CSR (R363): `mstatus` masked, the other eight whole; the read-only ten keep their value. -/
def csrStore (mask : Word) (f : CsrFile) (v : Word) : Csr → CsrFile
  | .mstatus => { f with mstatus := v &&& mask }
  | .misa => { f with misa := v }
  | .mie => { f with mie := v }
  | .mtvec => { f with mtvec := v }
  | .mscratch => { f with mscratch := v }
  | .mepc => { f with mepc := v }
  | .mcause => { f with mcause := v }
  | .mtval => { f with mtval := v }
  | .mip => { f with mip := v }
  | .cycle | .time | .instret | .cycleh | .timeh | .instreth | .mvendorid | .marchid | .mimpid | .mhartid => f

/-- `CSRwrite` (R363). -/
def csrWrite (mask : Word) (f : CsrFile) (a : CsrAddr) (v : Word) : CsrFile :=
  match csrAt a with
  | some c => csrStore mask f v c
  | none => f

/-- When a CSR instruction writes (40_pipeline.md R224): not in the set and clear forms with a zero `rs1` field. -/
def csrShouldWrite (f3 : BitVec 3) (rs1Field : RegIdx) : Bool := !(f3.getLsbD 1 && rs1Field == 0)

/-- When a CSR instruction reads (R224): not in the read-write forms with `rd` = 0. -/
def csrShouldRead (f3 : BitVec 3) (rd : RegIdx) : Bool := !(f3.extractLsb' 0 2 == 0b01#2 && rd == 0)

/-- The value a CSR access writes, by `funct3[1:0]` (40_pipeline.md R246): read-write, read-set, read-clear. The value 0 reaches no CSR access (DESIGN CHOICE, log 12). -/
def csrNewValue (f3 : BitVec 3) (old source : Word) : Word :=
  match f3.extractLsb' 0 2 with
  | 0b01#2 => source
  | 0b10#2 => old ||| source
  | 0b11#2 => old &&& ~~~source
  | _ => old

end Sys2Proof.Machine
end

