-- ==== Sys2Proof/Machine/Flags.lean ====
section
/-!
DEFINITION. The hardware has no status flag, condition code or predicate register (10_state.md R30).
What takes their place is here: the comparisons that a set-less-than writes as 0 or 1 and that a branch decides by (40_pipeline.md R231, R232).
-/
namespace Sys2Proof.Machine

open Sys2Proof

/-- `signed(a) < signed(b)` (00_scope.md R12). -/
def lessSigned (a b : Word) : Bool := decide (a.toInt < b.toInt)

/-- `a < b`, unsigned. -/
def lessUnsigned (a b : Word) : Bool := decide (a.toNat < b.toNat)

/-- The value of a set-less-than: exactly 1 or 0 (41_integer_computational.md R264). -/
def boolWord (b : Bool) : Word := if b then 1 else 0

/-- `cond` selected by `funct3` (R232); 0 for the two values no branch has. -/
def branchCondition (f3 : BitVec 3) (a b : Word) : Bool :=
  match f3 with
  | 0b000#3 => a == b
  | 0b001#3 => a != b
  | 0b100#3 => lessSigned a b
  | 0b101#3 => !lessSigned a b
  | 0b110#3 => lessUnsigned a b
  | 0b111#3 => !lessUnsigned a b
  | _ => false

end Sys2Proof.Machine
end

