-- ==== Sys2Proof/Machine/Ops.lean ====
section
/-!
DEFINITION. The named operations over memory, bus and program counter (20_memory.md, 10_state.md R27), taking an exception and returning
from one (60_exceptions.md). Registers are in Operands.lean, CSRs in Csr.lean.
-/
namespace Sys2Proof.Machine

open Sys2Proof

/-! ## Storage cells -/

/-- The byte stored at a home address. -/
def Memory.read : Memory → Nat → Byte
  | [], a => Memory.unlisted a
  | (k, b) :: rest, a => if k = a then b else Memory.read rest a

/-- The cell for a byte, listed only where it differs from what an unlisted address reads as. -/
def Memory.cell (a : Nat) (b : Byte) (rest : Memory) : Memory :=
  if b = Memory.unlisted a then rest else (a, b) :: rest

/-- The memory with one byte replaced; keeps the canonical form. -/
def Memory.write : Memory → Nat → Byte → Memory
  | [], a, b => Memory.cell a b []
  | (k, c) :: rest, a, b =>
    if a < k then Memory.cell a b ((k, c) :: rest)
    else if a = k then Memory.cell a b rest
    else (k, c) :: Memory.write rest a b

/-- The word of four bytes from `a` on, lane 0 in bits [31:24] (R90). -/
def Memory.readWord (m : Memory) (a : Nat) : Word :=
  wordOfLanes (m.read a) (m.read (a + 1)) (m.read (a + 2)) (m.read (a + 3))

/-- The memory with the four bytes from `a` on replaced by a word's lanes. -/
def Memory.writeWord (m : Memory) (a : Nat) (w : Word) : Memory :=
  (((m.write a (laneOf w 0)).write (a + 1) (laneOf w 1)).write (a + 2) (laneOf w 2)).write (a + 3) (laneOf w 3)

/-! ## Address decoding (R81, R82) -/

inductive Region where
  | rom
  | ram
  | unmapped
deriving DecidableEq, Repr

/-- `region(addr)`, by the top four bits (R81). -/
def region (a : Word) : Region :=
  if a.extractLsb' 28 4 = 0x1#4 then .rom
  else if a.extractLsb' 28 4 = 0x2#4 then .ram
  else .unmapped

/-- `mapped(addr)` (R81). -/
def mapped (a : Word) : Bool := region a != .unmapped

/-- The physical size behind a region; an unmapped window has no device, and no access reaches it. -/
def deviceSize (c : Config) : Region → Nat
  | .rom => c.romSize
  | .ram => c.ramSize
  | .unmapped => windowSize

/-- The home address of a bus address: its window's base plus `offset(addr) = addr[27:0] & (SIZE - 1)` (R82), so that all mirrors of one
byte share one cell (DEDUCED, log 13). -/
def homeAddress (c : Config) (a : Word) : Nat :=
  a.toNat / windowSize * windowSize + a.toNat % windowSize % deviceSize c (region a)

/-- The home address of the aligned word that holds a bus address: word index `offset >> 2` (R82). -/
def homeWord (c : Config) (a : Word) : Nat := homeAddress c a / 4 * 4

/-- The lane of a bus address in its word: `addr[1:0]` (R82, R90). -/
def laneIndex (a : Word) : Nat := a.toNat % 4

/-! ## Widths and checks -/

/-- The access widths (R106). -/
inductive Width where
  | byte
  | half
  | word
deriving DecidableEq, Repr

/-- Bytes moved. -/
def Width.bytes : Width → Nat
  | .byte => 1
  | .half => 2
  | .word => 4

/-- The width of a load or store, `funct3[1:0]` (R106). The value 3 is an illegal encoding and reaches no access (30_encoding.md R158; DESIGN CHOICE, log 12). -/
def widthOf (f3 : BitVec 3) : Width :=
  match f3.extractLsb' 0 2 with
  | 0b00#2 => .byte
  | 0b01#2 => .half
  | _ => .word

/-- Not naturally aligned, on the full address (R100, R102). -/
def misaligned (w : Width) (a : Word) : Bool :=
  match w with
  | .byte => false
  | .half => a.extractLsb' 0 1 != 0
  | .word => a.extractLsb' 0 2 != 0

/-- The two ways an access fails. -/
inductive AccessFault where
  | misaligned
  | unmapped
deriving DecidableEq, Repr

/-- The checks of one access: alignment first, then mapping (R105). -/
def accessFault (w : Width) (a : Word) : Option AccessFault :=
  if misaligned w a then some .misaligned
  else if mapped a then none
  else some .unmapped

/-! ## Reads and writes, after the checks -/

/-- The word that holds a bus address. -/
def busWord (c : Config) (m : Memory) (a : Word) : Word := m.readWord (homeWord c a)

/-- The lanes a read selects, zero above (R96). -/
def selectLanes (w : Width) (lane : Nat) (v : Word) : Word :=
  match w with
  | .word => v
  | .half => (if lane < 2 then v.extractLsb' 16 16 else v.extractLsb' 0 16).setWidth 32
  | .byte => (laneOf v lane).setWidth 32

/-- The new word `w'` of a write: the stored lanes from `v`, the others kept (R97). -/
def mergeLanes (w : Width) (lane : Nat) (old v : Word) : Word :=
  match w with
  | .word => v
  | .half =>
    if lane < 2 then v.extractLsb' 0 16 ++ old.extractLsb' 0 16
    else old.extractLsb' 16 16 ++ v.extractLsb' 0 16
  | .byte =>
    match lane with
    | 0 => v.extractLsb' 0 8 ++ old.extractLsb' 0 24
    | 1 => old.extractLsb' 24 8 ++ v.extractLsb' 0 8 ++ old.extractLsb' 0 16
    | 2 => old.extractLsb' 16 16 ++ v.extractLsb' 0 8 ++ old.extractLsb' 0 8
    | _ => old.extractLsb' 8 24 ++ v.extractLsb' 0 8

/-- `MemRead(addr, n)` past its checks, as an unsigned number (R96). -/
def busRead (c : Config) (m : Memory) (w : Width) (a : Word) : Word :=
  selectLanes w (laneIndex a) (busWord c m a)

/-- `MemWrite(addr, n, v)` past its checks: a store to ROM is dropped (R87), a store to RAM replaces its word (R97). -/
def busWrite (c : Config) (m : Memory) (w : Width) (a v : Word) : Memory :=
  match region a with
  | .ram => m.writeWord (homeWord c a) (mergeLanes w (laneIndex a) (busWord c m a) v)
  | .rom => m
  | .unmapped => m

/-- The value a load writes back: sign-extended from its width, or zero-extended (40_pipeline.md R244). -/
def extendLoaded (w : Width) (unsigned : Bool) (d : Word) : Word :=
  match w, unsigned with
  | .word, _ => d
  | .half, true => (d.extractLsb' 0 16).setWidth 32
  | .half, false => (d.extractLsb' 0 16).signExtend 32
  | .byte, true => (d.extractLsb' 0 8).setWidth 32
  | .byte, false => (d.extractLsb' 0 8).signExtend 32

/-- One byte as the bus shows it. -/
def State.byteAt (s : State) (a : Word) : Byte := s.mem.read (homeAddress s.cfg a)

/-- The aligned word as the bus shows it. -/
def State.wordAt (s : State) (a : Word) : Word := busWord s.cfg s.mem a

/-! ## The program counter -/

/-- `FA`: the address the next Fetch slot reads, the architectural program counter (10_state.md R27, 40_pipeline.md R210). -/
def State.fetchAddress (s : State) : Word :=
  if s.exBank.branchValid then s.exBank.branchAddress else s.ifBank.pcPlus4

/-- The machine stands between two instructions: the next cycle is an evaluated Fetch slot (R196, R200). -/
def State.atFetch (s : State) : Bool :=
  decide (s.orch.mode = .pipeline) && decide (s.orch.slot = .F) && !s.memBank.trap && !s.deBank.trap && !s.deBank.mret

/-- What a Fetch slot finds at `FA` (40_pipeline.md R211, R212). -/
inductive Fetched where
  | misaligned
  | unmapped
  | word (w : Word)
deriving DecidableEq, Repr

/-- The fetch at `FA`, alignment before mapping (20_memory.md R101, R104, R105). -/
def State.fetch (s : State) : Fetched :=
  match accessFault .word s.fetchAddress with
  | some .misaligned => .misaligned
  | some .unmapped => .unmapped
  | none => .word (s.wordAt s.fetchAddress)

/-! ## Exceptions (60_exceptions.md) -/

/-- The seven exceptions (R401). -/
inductive Exn where
  | instructionAddressMisaligned
  | instructionAccessFault
  | illegalInstruction
  | loadAddressMisaligned
  | loadAccessFault
  | storeAMOAddressMisaligned
  | storeAMOAccessFault
deriving DecidableEq, Repr

/-- The `mcause` code (R401). -/
def causeCode : Exn → Word
  | .instructionAddressMisaligned => 0
  | .instructionAccessFault => 1
  | .illegalInstruction => 2
  | .loadAddressMisaligned => 4
  | .loadAccessFault => 5
  | .storeAMOAddressMisaligned => 6
  | .storeAMOAccessFault => 7

/-- What is saved (R410, R411). -/
structure TrapContext where
  mepc : Word
  mcause : Word
  mtval : Word
deriving DecidableEq, Repr

/-- The stage that raises; it fixes how many cycles the instruction spends up to and with its accept cycle (40_pipeline.md R253). -/
inductive TrapStage where
  | decode
  | memoryAccess
deriving DecidableEq, Repr

def acceptedAfter : TrapStage → BitVec 64
  | .decode => 3
  | .memoryAccess => 5

/-- `vector(mtvec, cause)` (R421). -/
def vectorAddress (mtvec cause : Word) : Word :=
  (mtvec &&& ~~~3#32) + (if cause.getLsbD 31 then 0 else exceptionTableOffset) + (((cause.extractLsb' 0 31).setWidth 32) <<< 2)

/-- A flush: the four stage banks take their defaults and the slot becomes F (40_pipeline.md R204). -/
def State.flush (s : State) : State :=
  { s with
    ifBank := FetchBank.default
    deBank := DecodeBank.default
    exBank := ExecuteBank.default
    memBank := MemoryBank.default
    orch := { s.orch with slot := .F } }

def State.addCycles (s : State) (n : BitVec 64) : State :=
  { s with csr := { s.csr with cycles := s.csr.cycles + n } }

/-- The accept cycle of an exception: the context is latched, the Trap Controller starts, the pipeline is flushed (40_pipeline.md R200, R202). -/
def State.acceptTrap (s : State) (ctx : TrapContext) : State :=
  { s.flush with
    trBank := { s.trBank with state := .setCsrAndComputeVector, mepc := ctx.mepc, mcause := ctx.mcause, mtval := ctx.mtval }
    orch := ⟨.trap, .F⟩ }

/-- The accept cycle of an MRET: the latch keeps its values (R416). -/
def State.acceptMret (s : State) : State :=
  { s.flush with
    trBank := { s.trBank with state := .returnFromTrap }
    orch := ⟨.trap, .F⟩ }

/-- `SetProgramCounter` with its target: Fetch takes it and the mode returns to Pipeline (60_exceptions.md R423). -/
def State.setProgramCounter (s : State) (target : Word) : State :=
  { s with
    ifBank := { s.ifBank with pc := target, pcPlus4 := target }
    trBank := { s.trBank with state := .idle, pcToSet := target }
    orch := { s.orch with mode := .pipeline } }

/-- TAKING AN EXCEPTION, whole, from the Fetch slot of the trapping instruction to the Fetch slot of the handler (R420 to R423, R412; 5 or 7
cycles, 70_reset_and_hazards.md R486). Where the vector table entry is unmapped the machine is left in the last state it reaches, accepted and
waiting in `SetCsrAndComputeVector`; its next cycle is FATAL (R428; DESIGN CHOICE, log 2). -/
def takeTrap (stage : TrapStage) (ctx : TrapContext) (s : State) : State :=
  let accepted := (s.acceptTrap ctx).addCycles (acceptedAfter stage)
  let vector := vectorAddress s.csr.mtvec ctx.mcause
  match accessFault .word vector with
  | none =>
    { accepted.setProgramCounter (s.wordAt vector) with
      csr := { s.csr with
        cycles := s.csr.cycles + acceptedAfter stage + 2
        mepc := ctx.mepc
        mcause := ctx.mcause
        mtval := ctx.mtval } }
  | some _ => accepted

/-- RETURNING FROM ONE: MRET from its Fetch slot to the Fetch slot at `mepc`, five cycles (R424, R430, 44_system_csr.md R375). -/
def returnFromTrap (s : State) : State :=
  (s.acceptMret.setProgramCounter s.csr.mepc).addCycles 5

/-- The context of an exception of the instruction at `FA`: `mepc` is its address plus 4 (R410). -/
def State.trapContext (s : State) (e : Exn) (tval : Word) : TrapContext :=
  ⟨s.fetchAddress + 4, causeCode e, tval⟩

/-- IllegalInstruction at Decode for the word fetched at `FA` (R404 (a)). -/
def illegalInstruction (w : Word) (s : State) : State :=
  takeTrap .decode (s.trapContext .illegalInstruction w) s

end Sys2Proof.Machine
end

