-- ==== Sys2Proof/Machine/Stages.lean ====
section
/-!
DEFINITION. The five stages (40_pipeline.md R210 to R251), each as the function from committed inputs to the bank it stages.
They work on the raw bits of the instruction word and know nothing of `Instr` or of the decoder.
-/
namespace Sys2Proof.Machine

open Sys2Proof

/-! ## Fetch -/

/-- R211, R212: a fetch that faults makes no bus access and stages the placeholder word 0. -/
def fetchStage (s : State) : FetchBank where
  pc := s.fetchAddress
  pcPlus4 := s.fetchAddress + 4
  instruction :=
    match s.fetch with
    | .word w => w
    | .misaligned => 0
    | .unmapped => 0

/-! ## Decode -/

/-- R223: the immediate of the class's format (30_encoding.md R133 to R137, R140); under an unrecognised opcode the I-immediate (DEDUCED, log 11). -/
def immediateOf (w : Word) : Word :=
  let op := opcodeOf w
  if op = opStore then imm12 (sImmOf w)
  else if op = opBranch then branchOffset (bImmOf w)
  else if op = opLui then upperImm (uImmOf w)
  else if op = opAuipc then upperImm (uImmOf w)
  else if op = opJal then jumpOffset (jImmOf w)
  else imm12 (iImmOf w)

/-- R142: one test for OP and OP-IMM, which ignores `inst[5]`. -/
def isAluOpcode (op : BitVec 7) : Bool := op &&& 0b1011111#7 == 0b0010011#7

/-- R220 to R225: what Decode stages for a word that raises no exception. -/
def decodeLatch (f : FetchBank) (regs : RegFile) : DecodeBank :=
  let w := f.instruction
  let op := opcodeOf w
  { instruction := w
    pc := f.pc
    pcPlus4 := f.pcPlus4
    opcode := op
    rd := rdOf w
    funct3 := funct3Of w
    rs1Addr := rs1Of w
    rs2Addr := rs2Of w
    shamt := shamtOf w
    funct7 := funct7Of w
    rs1 := RegFile.read regs (rs1Of w)
    rs2 := RegFile.read regs (rs2Of w)
    imm32 := immediateOf w
    isAluOperation := isAluOpcode op
    isStore := op == opStore
    isLoad := op == opLoad
    isLUI := op == opLui
    isAUIPC := op == opAuipc
    isBranch := op == opBranch
    isJAL := op == opJal
    isJump := op == opJal || op == opJalr
    isSystem := op == opSystem
    csrAddress := csrOf w
    csrSource := if (funct3Of w).getLsbD 2 then csrImm (uimmOf w) else RegFile.read regs (rs1Of w)
    csrShouldWrite := csrShouldWrite (funct3Of w) (rs1Of w)
    csrShouldRead := csrShouldRead (funct3Of w) (rdOf w)
    mret := w == mretWord
    trap := false
    mcause := 0
    mepc := 0
    mtval := 0 }

/-- R226: the exception Decode raises, with its `mtval`, from `IF.pc` and the word. -/
def decodeFault (f : FetchBank) : Option (Exn × Word) :=
  match accessFault .word f.pc with
  | some .misaligned => some (.instructionAddressMisaligned, f.pc)
  | some .unmapped => some (.instructionAccessFault, f.pc)
  | none => if legal f.instruction then none else some (.illegalInstruction, f.instruction)

/-- R222, R225, R226: with an exception, all nine control signals and `mret` are staged 0 and the trap context is staged. -/
def decodeStage (f : FetchBank) (regs : RegFile) : DecodeBank :=
  match decodeFault f with
  | none => decodeLatch f regs
  | some (e, tval) =>
    { decodeLatch f regs with
      isAluOperation := false
      isStore := false
      isLoad := false
      isLUI := false
      isAUIPC := false
      isBranch := false
      isJAL := false
      isJump := false
      isSystem := false
      mret := false
      trap := true
      mcause := causeCode e
      mepc := f.pcPlus4
      mtval := tval }

/-! ## Execute -/

/-- R230, R231: the eight results, one selected by `funct3`. -/
def aluSelect (isRegisterOp alt : Bool) (f3 : BitVec 3) (a rs2 imm : Word) (shamt : BitVec 5) : Word :=
  let b := if isRegisterOp then rs2 else imm
  let sh := if isRegisterOp then shiftAmount rs2 else shamt
  match f3 with
  | 0b000#3 => if isRegisterOp && alt then a - rs2 else a + b
  | 0b001#3 => shiftLeft a sh
  | 0b010#3 => boolWord (lessSigned a b)
  | 0b011#3 => boolWord (lessUnsigned a b)
  | 0b100#3 => a ^^^ b
  | 0b101#3 => if alt then shiftRightArith a sh else shiftRightLogical a sh
  | 0b110#3 => a ||| b
  | _ => a &&& b

/-- R230 to R235. -/
def executeStage (d : DecodeBank) : ExecuteBank where
  aluResult := aluSelect (d.opcode.getLsbD 5) (d.instruction.getLsbD 30) d.funct3 d.rs1 d.rs2 d.imm32 d.shamt
  branchAddress := if d.isJump && !d.isJAL then d.rs1 + d.imm32 else d.pc + d.imm32
  branchValid := d.isJump || (d.isBranch && branchCondition d.funct3 d.rs1 d.rs2)
  rd := d.rd
  rs1 := d.rs1
  rs2 := d.rs2
  imm32 := d.imm32
  funct3 := d.funct3
  pc := d.pc
  pcPlus4 := d.pcPlus4
  instruction := d.instruction
  isAluOperation := d.isAluOperation
  isStore := d.isStore
  isLoad := d.isLoad
  isLUI := d.isLUI
  isAUIPC := d.isAUIPC
  isJump := d.isJump
  isSystem := d.isSystem
  csrAddress := d.csrAddress
  csrSource := d.csrSource
  csrShouldWrite := d.csrShouldWrite
  csrShouldRead := d.csrShouldRead

/-! ## MemoryAccess -/

/-- R240: the address, computed here. -/
def accessAddress (x : ExecuteBank) : Word := x.imm32 + x.rs1

/-- R241: the one exception MemoryAccess finds, if any. -/
def memoryFault (x : ExecuteBank) : Option Exn :=
  if x.isLoad || x.isStore then
    match accessFault (widthOf x.funct3) (accessAddress x) with
    | some .misaligned => some (if x.isLoad then .loadAddressMisaligned else .storeAMOAddressMisaligned)
    | some .unmapped => some (if x.isLoad then .loadAccessFault else .storeAMOAccessFault)
    | none => none
  else if x.isSystem then
    if csrAccessOk x.csrAddress x.csrShouldWrite then none else some .illegalInstruction
  else none

/-- R246: the value a CSR access reads. -/
def csrOld (f : CsrFile) (x : ExecuteBank) : Word := if x.csrShouldRead then csrRead f x.csrAddress else 0

/-- R243 to R246: the write-back value of the one class, tested in this order (the flags exclude each other; DESIGN CHOICE, log 12). -/
def writebackOf (s : State) (x : ExecuteBank) : Word :=
  if x.isStore then 0
  else if x.isLoad then
    extendLoaded (widthOf x.funct3) (x.funct3.getLsbD 2) (busRead s.cfg s.mem (widthOf x.funct3) (accessAddress x))
  else if x.isLUI then x.imm32
  else if x.isJump then x.pcPlus4
  else if x.isAUIPC then x.branchAddress
  else if x.isAluOperation then x.aluResult
  else if x.isSystem then csrOld s.csr x
  else 0

/-- R247. -/
def writebackValid (x : ExecuteBank) : Bool :=
  x.isLoad || x.isAluOperation || x.isLUI || x.isJump || x.isSystem || x.isAUIPC

/-- R248, R249: the bank MemoryAccess stages. -/
def memoryStage (s : State) : MemoryBank :=
  let x := s.exBank
  match memoryFault x with
  | some e => ⟨0, false, x.rd, x.pc, true, causeCode e, x.pcPlus4, x.instruction⟩
  | none => ⟨writebackOf s x, writebackValid x, x.rd, x.pc, false, 0, 0, 0⟩

/-- R243, R248: the memory MemoryAccess stages. -/
def memoryStageMem (s : State) : Memory :=
  let x := s.exBank
  match memoryFault x with
  | some _ => s.mem
  | none => if x.isStore then busWrite s.cfg s.mem (widthOf x.funct3) (accessAddress x) x.rs2 else s.mem

/-- R246, R248: the CSR bank MemoryAccess stages, over the counters as this cycle stages them. -/
def memoryStageCsr (s : State) (staged : CsrFile) : CsrFile :=
  let x := s.exBank
  match memoryFault x with
  | some _ => staged
  | none =>
    if x.isSystem && x.csrShouldWrite then
      csrWrite s.cfg.mstatusMask staged x.csrAddress (csrNewValue x.funct3 (csrOld s.csr x) x.csrSource)
    else staged

/-! ## WriteBack -/

/-- R250: the register file WriteBack stages; the `x0` guard is in `RegFile.write`. -/
def writeBackStage (s : State) : RegFile :=
  if s.memBank.writebackValueValid then RegFile.write s.regs s.memBank.rd s.memBank.writebackValue else s.regs

end Sys2Proof.Machine
end

