-- ==== Sys2Proof/Machine/TwoPhase.lean ====
section
/-!
DEFINITION. The two-phase register (40_pipeline.md R180 to R184): a committed and a staged value, and the five operations on them.
One such pair over the whole State is the collection of all banks inside a cycle: every bank commits in the same cycle boundary (R181).
-/
namespace Sys2Proof.Machine

/-- A two-phase register, or a bank of them: `current` is committed, `next` is staged (R180). -/
structure TwoPhase (α : Type) where
  current : α
  next : α
deriving DecidableEq, Repr

/-- As a cycle finds it: "every staged value starts equal to its committed value" (R200). -/
def committed {α : Type} (v : α) : TwoPhase α := ⟨v, v⟩

/-- `write(v)` sets `next`. -/
def stage {α : Type} (r : TwoPhase α) (v : α) : TwoPhase α := { r with next := v }

/-- `read()` returns `current`. -/
def readCommitted {α : Type} (r : TwoPhase α) : α := r.current

/-- `readStaged()` returns `next`. -/
def readStaged {α : Type} (r : TwoPhase α) : α := r.next

/-- `commit()` copies `next` to `current`. -/
def commit {α : Type} (r : TwoPhase α) : TwoPhase α := ⟨r.next, r.next⟩

/-- `reset()` forces both to the declared default. -/
def resetTo {α : Type} (_ : TwoPhase α) (declared : α) : TwoPhase α := ⟨declared, declared⟩

end Sys2Proof.Machine
end

