-- ==== Sys2Proof/Machine/Cycle.lean ====
section
/-!
DEFINITION. One clock cycle (40_pipeline.md R200): the orchestrator, the Trap Controller, the commit; the fetch notification hook and the
run functions of a host (R215, 60_exceptions.md R452, R453, 70_reset_and_hazards.md R470).
Evaluation reads committed values only and stages (R182, R184).
-/
namespace Sys2Proof.Machine

open Sys2Proof

/-- R196: F, D, E, M, W, F. -/
def nextSlot : Slot → Slot
  | .F => .D
  | .D => .E
  | .E => .M
  | .M => .W
  | .W => .F

/-- What the evaluate phase leaves: the staged values and whether the commit flushes, or FATAL (60_exceptions.md R428). -/
inductive Evaluated where
  | staged (r : TwoPhase State) (flush : Bool)
  | fatal

/-- The counter's increment, staged in every cycle of either mode (R208, 10_state.md R34). -/
def stageCycles (r : TwoPhase State) : TwoPhase State :=
  stage r { readStaged r with csr := { (readStaged r).csr with cycles := (readCommitted r).csr.cycles + 1 } }

/-- The slot's advance. -/
def stageSlot (r : TwoPhase State) : TwoPhase State :=
  stage r { readStaged r with orch := { (readStaged r).orch with slot := nextSlot (readCommitted r).orch.slot } }

/-- One evaluated stage (R196): the one named by the slot; the other four are stalled and hold their banks (R198). -/
def evaluateSlot (r : TwoPhase State) : TwoPhase State :=
  let s := readCommitted r
  match s.orch.slot with
  | .F => stage r { readStaged r with ifBank := fetchStage s }
  | .D => stage r { readStaged r with deBank := decodeStage s.ifBank s.regs }
  | .E => stage r { readStaged r with exBank := executeStage s.deBank }
  | .M =>
    stage r { readStaged r with
      memBank := memoryStage s
      mem := memoryStageMem s
      csr := memoryStageCsr s (readStaged r).csr }
  | .W =>
    stage r { readStaged r with
      regs := writeBackStage s
      csr := { (readStaged r).csr with instret := s.csr.instret + 1 } }

/-- The accept of an exception (R200, R202): the Trap Controller latches the context and the mode changes. -/
def stageAcceptTrap (r : TwoPhase State) (ctx : TrapContext) : TwoPhase State :=
  stage r { readStaged r with
    trBank := { (readStaged r).trBank with
      state := .setCsrAndComputeVector
      mepc := ctx.mepc
      mcause := ctx.mcause
      mtval := ctx.mtval }
    orch := { (readStaged r).orch with mode := .trap } }

/-- The accept of an MRET (R200, R202). -/
def stageAcceptMret (r : TwoPhase State) : TwoPhase State :=
  stage r { readStaged r with
    trBank := { (readStaged r).trBank with state := .returnFromTrap }
    orch := { (readStaged r).orch with mode := .trap } }

/-- A pipeline-mode cycle: MemoryAccess's trap before Decode's before an MRET, else one stage (R200, R202, R203). -/
def evaluatePipeline (r : TwoPhase State) : Evaluated :=
  let s := readCommitted r
  if s.memBank.trap then .staged (stageAcceptTrap r ⟨s.memBank.mepc, s.memBank.mcause, s.memBank.mtval⟩) true
  else if s.deBank.trap then .staged (stageAcceptTrap r ⟨s.deBank.mepc, s.deBank.mcause, s.deBank.mtval⟩) true
  else if s.deBank.mret then .staged (stageAcceptMret r) true
  else .staged (stageSlot (evaluateSlot r)) false

/-- A trap-mode cycle: one state of the Trap Controller (R206, 60_exceptions.md R418 to R424). In `Idle` it does nothing; trap mode is never `Idle` (R418). -/
def evaluateTrap (r : TwoPhase State) : Evaluated :=
  let s := readCommitted r
  match s.trBank.state with
  | .idle => .staged r false
  | .setCsrAndComputeVector =>
    let vector := vectorAddress s.csr.mtvec s.trBank.mcause
    match accessFault .word vector with
    | none =>
      .staged (stage r { readStaged r with
        csr := { (readStaged r).csr with mepc := s.trBank.mepc, mcause := s.trBank.mcause, mtval := s.trBank.mtval }
        trBank := { (readStaged r).trBank with pcToSet := s.wordAt vector, state := .setProgramCounter } }) false
    | some _ => .fatal
  | .setProgramCounter =>
    .staged (stage r { readStaged r with
      ifBank := { (readStaged r).ifBank with pc := s.trBank.pcToSet, pcPlus4 := s.trBank.pcToSet }
      trBank := { (readStaged r).trBank with state := .idle }
      orch := { (readStaged r).orch with mode := .pipeline } }) false
  | .returnFromTrap =>
    .staged (stage r { readStaged r with
      trBank := { (readStaged r).trBank with pcToSet := s.csr.mepc, state := .setProgramCounter } }) false

/-- The evaluate phase (R200). -/
def evaluate (r : TwoPhase State) : Evaluated :=
  match (readCommitted r).orch.mode with
  | .pipeline => evaluatePipeline (stageCycles r)
  | .trap => evaluateTrap (stageCycles r)

/-- The commit phase (R200): every bank commits, or, with a flush, the four stage banks and the slot take their defaults instead (R204). -/
def commitPhase (r : TwoPhase State) (flush : Bool) : State :=
  if flush then (readCommitted (commit r)).flush else readCommitted (commit r)

/-- One clock cycle. In the cycle that is FATAL nothing commits (R208, R428). -/
def cycle (s : State) : Result :=
  match evaluate (committed s) with
  | .staged r flush => .next (commitPhase r flush)
  | .fatal => .fault .fatalVectorRead

/-! ## What a host sees and does -/

/-- The fetch notification hook (R215, R452): the output event of the coming cycle, `FA` in an evaluated Fetch slot. -/
def fetchHook (s : State) : Option Word := if s.atFetch then some s.fetchAddress else none

/-- Clocking for a number of cycles (R470). -/
def runCycles : Nat → State → Result
  | 0, s => .next s
  | n + 1, s =>
    match cycle s with
    | .next t => runCycles n t
    | .fault f => .fault f
    | .refused r => .refused r

/-- Clocking until the host's break predicate holds of a fetched address, between two cycles, or the cycles are spent (R453, R470). -/
def runUntilBreak (stop : Word → Bool) : Nat → State → Result
  | 0, s => .next s
  | n + 1, s =>
    if (fetchHook s).any stop then .next s
    else
      match cycle s with
      | .next t => runUntilBreak stop n t
      | .fault f => .fault f
      | .refused r => .refused r

end Sys2Proof.Machine
end

