-- ==== Sys2Proof/Machine/Retire.lean ====
section
/-!
DEFINITION. How an instruction completes or traps, at the instruction level (00_scope.md R13, R19): the shared operations the meanings of files
41 to 44 are one line over. The hidden banks are left as the five cycles leave them (40_pipeline.md R252), so that no state the spec gives is lost.
-/
namespace Sys2Proof.Machine

open Sys2Proof

/-- The Fetch bank while the instruction is in flight (10_state.md R26). -/
def State.fetchedBank (s : State) (i : Instr) : FetchBank := ⟨s.fetchAddress, s.fetchAddress + 4, encode i⟩

/-- The Execute bank it leaves: the stage's values, with the transfer of control the instruction's own rule gives (`target` of a taken branch or
jump; R234). -/
def State.executedBank (s : State) (i : Instr) (target : Option Word) : ExecuteBank :=
  let x := executeStage (decodeLatch (s.fetchedBank i) s.regs)
  match target with
  | some t => { x with branchValid := true, branchAddress := t }
  | none => { x with branchValid := false }

/-- An instruction that raises nothing (R252): five cycles, one retirement (10_state.md R35), `value` as its write-back value where it has one
(R247), control to `target` if there is one and to `pc + 4` otherwise (R13, 42_control_transfer.md R300).
Register file, memory and CSRs are its caller's. -/
def State.retire (s : State) (i : Instr) (value : Option Word) (target : Option Word) : State :=
  { s with
    csr := { s.csr with cycles := s.csr.cycles + 5, instret := s.csr.instret + 1 }
    ifBank := s.fetchedBank i
    deBank := decodeLatch (s.fetchedBank i) s.regs
    exBank := s.executedBank i target
    memBank := ⟨value.getD 0, value.isSome, rdOf (encode i), s.fetchAddress, false, 0, 0, 0⟩ }

/-- Completing with `x[rd] <- v` (R13), and the next instruction at `target` or `pc + 4`. -/
def State.retireWriting (s : State) (i : Instr) (rd : RegIdx) (v : Word) (target : Option Word) : State :=
  { s.retire i (some v) target with regs := RegFile.write s.regs rd v }

/-- An exception raised by Decode for an instruction fetched whole (60_exceptions.md R404 (a)). -/
def State.decodeTrap (s : State) (i : Instr) : State := illegalInstruction (encode i) s

/-- An exception raised by MemoryAccess: `mtval` is the instruction word (R405 to R408, R404 (b), R411). -/
def State.memoryTrap (s : State) (i : Instr) (e : Exn) : State :=
  takeTrap .memoryAccess (s.trapContext e (encode i)) s

/-- A load: aligned, mapped, read, extended, written back (43_load_store.md R330 to R335, R340). -/
def State.load (s : State) (i : Instr) (rd rs1 : RegIdx) (imm : BitVec 12) (w : Width) (unsigned : Bool) : State :=
  let ea := s.effectiveAddress rs1 imm
  match accessFault w ea with
  | some .misaligned => s.memoryTrap i .loadAddressMisaligned
  | some .unmapped => s.memoryTrap i .loadAccessFault
  | none => s.retireWriting i rd (extendLoaded w unsigned (busRead s.cfg s.mem w ea)) none

/-- A store: aligned, mapped, written, or dropped where the address is in ROM (R330, R336 to R338, R340, 20_memory.md R87). -/
def State.store (s : State) (i : Instr) (rs2 rs1 : RegIdx) (imm : BitVec 12) (w : Width) : State :=
  let ea := s.effectiveAddress rs1 imm
  match accessFault w ea with
  | some .misaligned => s.memoryTrap i .storeAMOAddressMisaligned
  | some .unmapped => s.memoryTrap i .storeAMOAccessFault
  | none => { s.retire i none none with mem := busWrite s.cfg s.mem w ea (s.reg rs2) }

/-- The CSR bank as a CSR instruction sees it in its M cycle, three cycles after its Fetch slot (44_system_csr.md R370, 10_state.md R36). -/
def State.csrInMemoryCycle (s : State) : CsrFile := { s.csr with cycles := s.csr.cycles + 3 }

/-- A CSR access (R361 to R363): checked, read if `read`, written with `new old` if `write`, the old value to `x[rd]`. -/
def State.csrAccess (s : State) (i : Instr) (rd : RegIdx) (a : CsrAddr) (read write : Bool) (new : Word → Word) : State :=
  if csrAccessOk a write then
    let old := if read then csrRead s.csrInMemoryCycle a else 0
    let retired := s.retireWriting i rd old none
    if write then { retired with csr := csrWrite s.cfg.mstatusMask retired.csr a (new old) } else retired
  else s.memoryTrap i .illegalInstruction

end Sys2Proof.Machine
end

