-- ==== Sys2Proof/Machine/Control.lean ====
section
/-!
DEFINITION. The eight control transfer instructions (42_control_transfer.md R300 to R311). A bad target faults at its own fetch, never here (R310).
-/
namespace Sys2Proof.Machine

open Sys2Proof

/-- The shape of the six branches: nothing written, control to `pc + offset` where the condition holds. -/
def State.branch (s : State) (i : Instr) (taken : Bool) (offset : BitVec 13) : State :=
  s.retire i none (if taken then some (s.fetchAddress + branchOffset offset) else none)

/-- R301: link, then `pc <- pc + offset`. -/
def execJal (rd : RegIdx) (offset : BitVec 21) (s : State) : Result :=
  .next (s.retireWriting (.jal rd offset) rd (s.fetchAddress + 4) (some (s.fetchAddress + jumpOffset offset)))

/-- R302: the target from the old `x[rs1]`, bit 0 kept. -/
def execJalr (rd rs1 : RegIdx) (imm : BitVec 12) (s : State) : Result :=
  .next (s.retireWriting (.jalr rd rs1 imm) rd (s.fetchAddress + 4) (some (s.reg rs1 + imm12 imm)))

/-- R303. -/
def execBeq (rs1 rs2 : RegIdx) (offset : BitVec 13) (s : State) : Result :=
  .next (s.branch (.beq rs1 rs2 offset) (s.reg rs1 == s.reg rs2) offset)

/-- R304. -/
def execBne (rs1 rs2 : RegIdx) (offset : BitVec 13) (s : State) : Result :=
  .next (s.branch (.bne rs1 rs2 offset) (s.reg rs1 != s.reg rs2) offset)

/-- R305. -/
def execBlt (rs1 rs2 : RegIdx) (offset : BitVec 13) (s : State) : Result :=
  .next (s.branch (.blt rs1 rs2 offset) (lessSigned (s.reg rs1) (s.reg rs2)) offset)

/-- R306. -/
def execBge (rs1 rs2 : RegIdx) (offset : BitVec 13) (s : State) : Result :=
  .next (s.branch (.bge rs1 rs2 offset) (!lessSigned (s.reg rs1) (s.reg rs2)) offset)

/-- R307. -/
def execBltu (rs1 rs2 : RegIdx) (offset : BitVec 13) (s : State) : Result :=
  .next (s.branch (.bltu rs1 rs2 offset) (lessUnsigned (s.reg rs1) (s.reg rs2)) offset)

/-- R308. -/
def execBgeu (rs1 rs2 : RegIdx) (offset : BitVec 13) (s : State) : Result :=
  .next (s.branch (.bgeu rs1 rs2 offset) (!lessUnsigned (s.reg rs1) (s.reg rs2)) offset)

end Sys2Proof.Machine
end

