-- ==== Sys2Proof/Machine/Integer.lean ====
section
/-!
DEFINITION. The 21 integer computational instructions (41_integer_computational.md R260 to R281), each by its own pseudocode.
-/
namespace Sys2Proof.Machine

open Sys2Proof

/-- R261: `x[rd] <- {imm20, 12'b0}`. -/
def execLui (rd : RegIdx) (imm : BitVec 20) (s : State) : Result :=
  .next (s.retireWriting (.lui rd imm) rd (upperImm imm) none)

/-- R262: `x[rd] <- pc + {imm20, 12'b0}`. -/
def execAuipc (rd : RegIdx) (imm : BitVec 20) (s : State) : Result :=
  .next (s.retireWriting (.auipc rd imm) rd (s.fetchAddress + upperImm imm) none)

/-- R263. -/
def execAddi (rd rs1 : RegIdx) (imm : BitVec 12) (s : State) : Result :=
  .next (s.retireWriting (.addi rd rs1 imm) rd (s.reg rs1 + imm12 imm) none)

/-- R264: signed comparison. -/
def execSlti (rd rs1 : RegIdx) (imm : BitVec 12) (s : State) : Result :=
  .next (s.retireWriting (.slti rd rs1 imm) rd (boolWord (lessSigned (s.reg rs1) (imm12 imm))) none)

/-- R265: the immediate is sign-extended first, then compared unsigned. -/
def execSltiu (rd rs1 : RegIdx) (imm : BitVec 12) (s : State) : Result :=
  .next (s.retireWriting (.sltiu rd rs1 imm) rd (boolWord (lessUnsigned (s.reg rs1) (imm12 imm))) none)

/-- R266. -/
def execXori (rd rs1 : RegIdx) (imm : BitVec 12) (s : State) : Result :=
  .next (s.retireWriting (.xori rd rs1 imm) rd (s.reg rs1 ^^^ imm12 imm) none)

/-- R267. -/
def execOri (rd rs1 : RegIdx) (imm : BitVec 12) (s : State) : Result :=
  .next (s.retireWriting (.ori rd rs1 imm) rd (s.reg rs1 ||| imm12 imm) none)

/-- R268. -/
def execAndi (rd rs1 : RegIdx) (imm : BitVec 12) (s : State) : Result :=
  .next (s.retireWriting (.andi rd rs1 imm) rd (s.reg rs1 &&& imm12 imm) none)

/-- R269. -/
def execSlli (rd rs1 : RegIdx) (shamt : BitVec 5) (s : State) : Result :=
  .next (s.retireWriting (.slli rd rs1 shamt) rd (shiftLeft (s.reg rs1) shamt) none)

/-- R270. -/
def execSrli (rd rs1 : RegIdx) (shamt : BitVec 5) (s : State) : Result :=
  .next (s.retireWriting (.srli rd rs1 shamt) rd (shiftRightLogical (s.reg rs1) shamt) none)

/-- R271. -/
def execSrai (rd rs1 : RegIdx) (shamt : BitVec 5) (s : State) : Result :=
  .next (s.retireWriting (.srai rd rs1 shamt) rd (shiftRightArith (s.reg rs1) shamt) none)

/-- R272. -/
def execAdd (rd rs1 rs2 : RegIdx) (s : State) : Result :=
  .next (s.retireWriting (.add rd rs1 rs2) rd (s.reg rs1 + s.reg rs2) none)

/-- R273. -/
def execSub (rd rs1 rs2 : RegIdx) (s : State) : Result :=
  .next (s.retireWriting (.sub rd rs1 rs2) rd (s.reg rs1 - s.reg rs2) none)

/-- R274. -/
def execSll (rd rs1 rs2 : RegIdx) (s : State) : Result :=
  .next (s.retireWriting (.sll rd rs1 rs2) rd (shiftLeft (s.reg rs1) (shiftAmount (s.reg rs2))) none)

/-- R275. -/
def execSlt (rd rs1 rs2 : RegIdx) (s : State) : Result :=
  .next (s.retireWriting (.slt rd rs1 rs2) rd (boolWord (lessSigned (s.reg rs1) (s.reg rs2))) none)

/-- R276. -/
def execSltu (rd rs1 rs2 : RegIdx) (s : State) : Result :=
  .next (s.retireWriting (.sltu rd rs1 rs2) rd (boolWord (lessUnsigned (s.reg rs1) (s.reg rs2))) none)

/-- R277. -/
def execXor (rd rs1 rs2 : RegIdx) (s : State) : Result :=
  .next (s.retireWriting (.xor rd rs1 rs2) rd (s.reg rs1 ^^^ s.reg rs2) none)

/-- R278. -/
def execSrl (rd rs1 rs2 : RegIdx) (s : State) : Result :=
  .next (s.retireWriting (.srl rd rs1 rs2) rd (shiftRightLogical (s.reg rs1) (shiftAmount (s.reg rs2))) none)

/-- R279. -/
def execSra (rd rs1 rs2 : RegIdx) (s : State) : Result :=
  .next (s.retireWriting (.sra rd rs1 rs2) rd (shiftRightArith (s.reg rs1) (shiftAmount (s.reg rs2))) none)

/-- R280. -/
def execOr (rd rs1 rs2 : RegIdx) (s : State) : Result :=
  .next (s.retireWriting (.or rd rs1 rs2) rd (s.reg rs1 ||| s.reg rs2) none)

/-- R281. -/
def execAnd (rd rs1 rs2 : RegIdx) (s : State) : Result :=
  .next (s.retireWriting (.and rd rs1 rs2) rd (s.reg rs1 &&& s.reg rs2) none)

end Sys2Proof.Machine
end

