-- ==== Sys2Proof/Machine/LoadStore.lean ====
section
/-!
DEFINITION. The eight loads and stores (43_load_store.md R330 to R341).
-/
namespace Sys2Proof.Machine

open Sys2Proof

/-- R331. -/
def execLb (rd rs1 : RegIdx) (imm : BitVec 12) (s : State) : Result :=
  .next (s.load (.lb rd rs1 imm) rd rs1 imm .byte false)

/-- R332. -/
def execLh (rd rs1 : RegIdx) (imm : BitVec 12) (s : State) : Result :=
  .next (s.load (.lh rd rs1 imm) rd rs1 imm .half false)

/-- R333. -/
def execLw (rd rs1 : RegIdx) (imm : BitVec 12) (s : State) : Result :=
  .next (s.load (.lw rd rs1 imm) rd rs1 imm .word false)

/-- R334. -/
def execLbu (rd rs1 : RegIdx) (imm : BitVec 12) (s : State) : Result :=
  .next (s.load (.lbu rd rs1 imm) rd rs1 imm .byte true)

/-- R335. -/
def execLhu (rd rs1 : RegIdx) (imm : BitVec 12) (s : State) : Result :=
  .next (s.load (.lhu rd rs1 imm) rd rs1 imm .half true)

/-- R336. -/
def execSb (rs2 rs1 : RegIdx) (imm : BitVec 12) (s : State) : Result :=
  .next (s.store (.sb rs2 rs1 imm) rs2 rs1 imm .byte)

/-- R337. -/
def execSh (rs2 rs1 : RegIdx) (imm : BitVec 12) (s : State) : Result :=
  .next (s.store (.sh rs2 rs1 imm) rs2 rs1 imm .half)

/-- R338. -/
def execSw (rs2 rs1 : RegIdx) (imm : BitVec 12) (s : State) : Result :=
  .next (s.store (.sw rs2 rs1 imm) rs2 rs1 imm .word)

end Sys2Proof.Machine
end

