-- ==== Sys2Proof/Machine/System.lean ====
section
/-!
DEFINITION. The six CSR instructions and MRET (44_system_csr.md R360 to R375), and the six instructions of these opcode spaces that the hardware
does not admit, whose effect is the IllegalInstruction exception (R380 to R383).
-/
namespace Sys2Proof.Machine

open Sys2Proof

/-- R364: `csrShouldRead` is `rd != 0`; always a write. -/
def execCsrrw (rd : RegIdx) (csr : CsrAddr) (rs1 : RegIdx) (s : State) : Result :=
  .next (s.csrAccess (.csrrw rd csr rs1) rd csr (rd != 0) true (fun _ => s.reg rs1))

/-- R365: a write unless the `rs1` field is 0. -/
def execCsrrs (rd : RegIdx) (csr : CsrAddr) (rs1 : RegIdx) (s : State) : Result :=
  .next (s.csrAccess (.csrrs rd csr rs1) rd csr true (rs1 != 0) (fun t => t ||| s.reg rs1))

/-- R366. -/
def execCsrrc (rd : RegIdx) (csr : CsrAddr) (rs1 : RegIdx) (s : State) : Result :=
  .next (s.csrAccess (.csrrc rd csr rs1) rd csr true (rs1 != 0) (fun t => t &&& ~~~(s.reg rs1)))

/-- R367. -/
def execCsrrwi (rd : RegIdx) (csr : CsrAddr) (uimm : BitVec 5) (s : State) : Result :=
  .next (s.csrAccess (.csrrwi rd csr uimm) rd csr (rd != 0) true (fun _ => csrImm uimm))

/-- R368: a write unless `uimm` is 0. -/
def execCsrrsi (rd : RegIdx) (csr : CsrAddr) (uimm : BitVec 5) (s : State) : Result :=
  .next (s.csrAccess (.csrrsi rd csr uimm) rd csr true (uimm != 0) (fun t => t ||| csrImm uimm))

/-- R369. -/
def execCsrrci (rd : RegIdx) (csr : CsrAddr) (uimm : BitVec 5) (s : State) : Result :=
  .next (s.csrAccess (.csrrci rd csr uimm) rd csr true (uimm != 0) (fun t => t &&& ~~~(csrImm uimm)))

/-- R375: `pc <- mepc`, and nothing else architectural. -/
def execMret (s : State) : Result := .next (returnFromTrap s)

/-- R380. -/
def execEcall (s : State) : Result := .next (s.decodeTrap .ecall)

/-- R381. -/
def execEbreak (s : State) : Result := .next (s.decodeTrap .ebreak)

/-- R382. -/
def execWfi (s : State) : Result := .next (s.decodeTrap .wfi)

/-- R382. -/
def execSret (s : State) : Result := .next (s.decodeTrap .sret)

/-- R383. -/
def execFence (fm pred succ : BitVec 4) (rs1 rd : RegIdx) (s : State) : Result :=
  .next (s.decodeTrap (.fence fm pred succ rs1 rd))

/-- R383. -/
def execFenceI (fm pred succ : BitVec 4) (rs1 rd : RegIdx) (s : State) : Result :=
  .next (s.decodeTrap (.fenceI fm pred succ rs1 rd))

end Sys2Proof.Machine
end

