-- ==== Sys2Proof/Machine/Sequencer.lean ====
section
/-!
DEFINITION. One instruction, from its Fetch slot to the next one (00_scope.md R19): fetch at `FA`, decode, run; and the placing of a word where
the next fetch finds it (for a loader outside the machine; log 8, 9).
-/
namespace Sys2Proof.Machine

open Sys2Proof

/-- A fetched word: its instruction's meaning, or IllegalInstruction where it is no row of the table (30_encoding.md R158, 60_exceptions.md R404). -/
def runWord (w : Word) (s : State) : Result :=
  match decode w with
  | .ok i => exec i s
  | .error _ => .next (illegalInstruction w s)

/-- The instruction at `FA`, with the two fetch exceptions, whose `mtval` is the address (R402, R403). -/
def runInstruction (s : State) : Result :=
  match s.fetch with
  | .misaligned => .next (takeTrap .decode (s.trapContext .instructionAddressMisaligned s.fetchAddress) s)
  | .unmapped => .next (takeTrap .decode (s.trapContext .instructionAccessFault s.fetchAddress) s)
  | .word w => runWord w s

/-- A state whose next cycle is a Fetch slot at a fetchable address: `s` itself where it is one, else with the orchestrator at slot F and no request
pending, and, where `FA` is misaligned or unmapped, the fetch address at the boot vector (DESIGN CHOICE, log 9). -/
def readyToFetch (s : State) : State :=
  let ready :=
    if s.atFetch then s
    else
      { s with
        orch := ⟨.pipeline, .F⟩
        trBank := { s.trBank with state := .idle }
        memBank := { s.memBank with trap := false }
        deBank := { s.deBank with trap := false, mret := false } }
  match accessFault .word ready.fetchAddress with
  | none => ready
  | some _ =>
    { ready with
      exBank := { ready.exBank with branchValid := false }
      ifBank := { ready.ifBank with pcPlus4 := bootVector } }

/-- The word stored where the next Fetch slot reads, in either device. -/
def placeWord (s : State) (w : Word) : State :=
  let ready := readyToFetch s
  { ready with mem := ready.mem.writeWord (homeWord ready.cfg ready.fetchAddress) w }

end Sys2Proof.Machine
end

