-- ==== Sys2Proof/Machine/Step.lean ====
section
/-!
DEFINITION. One step: a whole instruction from a state that stands between two instructions, and one clock cycle from any other state (DEDUCED, log 1).
-/
namespace Sys2Proof.Machine

open Sys2Proof

/-- The step. -/
def step (s : State) : Host.Outcome State Fault Refusal :=
  if s.atFetch then runInstruction s else cycle s

/-- `s` with the word of a table row stored where `step` fetches its next instruction (the bits above `nbits` are 0; DESIGN CHOICE, log 9). -/
def State.withFetchWord (s : State) (nbits w : Nat) : State := placeWord s (BitVec.ofNat 32 (w % 2 ^ nbits))

end Sys2Proof.Machine
end

