-- ==== Sys2Proof/Machine/Boot.lean ====
section
/-!
DEFINITION. The loader interface (70_reset_and_hazards.md R460, R464): the first state for any admissible parameters of 00_scope.md R10.
-/
namespace Sys2Proof.Machine

open Sys2Proof

/-- `CSR_BOOT`: a partial map over the nine writable CSRs (R464). -/
structure CsrBoot where
  mstatus : Option Word := none
  misa : Option Word := none
  mie : Option Word := none
  mtvec : Option Word := none
  mscratch : Option Word := none
  mepc : Option Word := none
  mcause : Option Word := none
  mtval : Option Word := none
  mip : Option Word := none
deriving DecidableEq, Repr

/-- The parameters of R10. A `RAM_INIT` is a list of words from RAM offset 0; words past its end are 0 (DESIGN CHOICE, log 4). -/
structure BootParams where
  cfg : Config
  romImage : List Word
  ramInit : List Word
  csrBoot : CsrBoot
deriving DecidableEq, Repr

/-- Why no first state exists (R464, 93_implementation_defined.md U10). -/
inductive BootError where
  | badConfig
  | romImageTooLong
  | ramInitTooLong
deriving DecidableEq, Repr

/-- The word list a program image file stands for: each four file bytes `b0 b1 b2 b3` are the word `{b3, b2, b1, b0}` (20_memory.md R94).
A file whose length is no multiple of four is no sequence of words, and its last bytes give none (DESIGN CHOICE, log 8). -/
def imageWords : List Byte → List Word
  | b0 :: b1 :: b2 :: b3 :: bs => (b3 ++ b2 ++ b1 ++ b0) :: imageWords bs
  | _ => []

/-- Words laid at rising home addresses: word `i` at offset `4 i` (20_memory.md R86). -/
def loadWords (m : Memory) (a : Nat) : List Word → Memory
  | [] => m
  | w :: ws => loadWords (m.writeWord a w) (a + 4) ws

/-- The CSR bank with `CSR_BOOT` applied, `mstatus` under the mask (10_state.md R40, R72). -/
def bootCsr (mask : Word) (b : CsrBoot) : CsrFile where
  cycles := 0
  instret := 0
  mstatus := b.mstatus.getD 0 &&& mask
  misa := b.misa.getD 0x40000100#32
  mie := b.mie.getD 0
  mtvec := b.mtvec.getD 0
  mscratch := b.mscratch.getD 0
  mepc := b.mepc.getD 0
  mcause := b.mcause.getD 0
  mtval := b.mtval.getD 0
  mip := b.mip.getD 0

/-- Reset for given parameters; a ROM image longer than the ROM is refused (R464), and so is a RAM_INIT list longer than the RAM (DESIGN CHOICE, log 4). -/
def boot (p : BootParams) : Except BootError State :=
  if !p.cfg.wf then .error .badConfig
  else if p.cfg.romSize < 4 * p.romImage.length then .error .romImageTooLong
  else if p.cfg.ramSize < 4 * p.ramInit.length then .error .ramInitTooLong
  else .ok { State.reset with
    cfg := p.cfg
    csr := bootCsr p.cfg.mstatusMask p.csrBoot
    mem := loadWords (loadWords [] romBase p.romImage) ramBase p.ramInit }

end Sys2Proof.Machine
end

