-- ==== Sys2Proof/Safety.lean ====
section
/-!
DEFINITION. What counts as a sound state and a safe run, and the words the statements use: the invariant, the terminal condition, the frames.
-/
namespace Sys2Proof.Machine

open Sys2Proof

/-! ## The invariant -/

/-- A home address that a device of the configured size has (20_memory.md R82, R84). -/
def existsAt (c : Config) (a : Nat) : Bool :=
  (decide (romBase ≤ a) && decide (a < romBase + c.romSize)) || (decide (ramBase ≤ a) && decide (a < ramBase + c.ramSize))

/-- Every listed cell is a byte some device has. -/
def Memory.within (c : Config) (m : Memory) : Bool := m.all (fun cell => existsAt c cell.1)

/-- The causes hardware writes (10_state.md R50, 60_exceptions.md R401). -/
def hardwareCause (v : Word) : Bool := v == 0 || v == 1 || v == 2 || v == 4 || v == 5 || v == 6 || v == 7

/-- What holds at reset and after every step and every cycle. -/
structure State.Inv (s : State) : Prop where
  /-- the parameters are admissible (00_scope.md R10) -/
  cfg_wf : s.cfg.wf = true
  /-- memory is in canonical form -/
  mem_wf : s.mem.wf = true
  /-- and lists no byte that no device has (20_memory.md R84) -/
  mem_within : s.mem.within s.cfg = true
  /-- "the cell behind `x0` never holds anything but 0" (10_state.md R21) -/
  x0_cell : s.regs[0] = 0
  /-- "Bits outside the mask read as 0 always" (10_state.md R40) -/
  mstatus_masked : s.csr.mstatus &&& ~~~s.cfg.mstatusMask = 0
  /-- "`ORCH.mode = Pipeline` if and only if `TR.state = Idle`" (60_exceptions.md R418) -/
  mode_idle : s.orch.mode = .pipeline ↔ s.trBank.state = .idle
  /-- in trap mode the pipeline is flushed (40_pipeline.md R204, R206) -/
  trap_flushed : s.orch.mode = .trap →
    s.orch.slot = .F ∧ s.deBank = DecodeBank.default ∧ s.exBank = ExecuteBank.default ∧ s.memBank = MemoryBank.default
  /-- a Decode request stands only in the cycle after the D slot (40_pipeline.md R202) -/
  decode_request : s.deBank.trap = true ∨ s.deBank.mret = true → s.orch.slot = .E
  /-- a MemoryAccess request stands only in the cycle after the M slot (40_pipeline.md R202) -/
  memory_request : s.memBank.trap = true → s.orch.slot = .W
  /-- pending and latched causes are the hardware's (10_state.md R50) -/
  decode_cause : s.deBank.trap = true → hardwareCause s.deBank.mcause = true
  memory_cause : s.memBank.trap = true → hardwareCause s.memBank.mcause = true
  latched_cause : s.trBank.state = .setCsrAndComputeVector → hardwareCause s.trBank.mcause = true
  /-- with an instruction in flight, `IF.pcPlus4 = IF.pc + 4` (10_state.md R26, 40_pipeline.md R210) -/
  in_flight : s.orch.slot ≠ .F → s.ifBank.pcPlus4 = s.ifBank.pc + 4

/-! ## The terminal condition -/

/-- The machine stands in `SetCsrAndComputeVector` with a vector table entry that cannot be read: its next cycle is FATAL (60_exceptions.md R428). -/
def State.fatalNext (s : State) : Prop :=
  s.orch.mode = .trap ∧ s.trBank.state = .setCsrAndComputeVector ∧ mapped (vectorAddress s.csr.mtvec s.trBank.mcause) = false

/-- A safe run is one in which no state is FATAL-bound. -/
def State.safe (s : State) : Prop := ¬ s.fatalNext

/-! ## Words for frames and results -/

/-- Every register reads as before, but `rd`, which reads `v`; a write to `x0` is dropped (10_state.md R21). -/
def WroteReg (s t : State) (rd : RegIdx) (v : Word) : Prop :=
  ∀ r : RegIdx, t.reg r = if r = rd ∧ r ≠ 0 then v else s.reg r

/-- Every register reads as before. -/
def SameRegs (s t : State) : Prop := ∀ r : RegIdx, t.reg r = s.reg r

/-- Every byte of storage reads as before. -/
def SameMemory (s t : State) : Prop := ∀ a : Nat, t.mem.read a = s.mem.read a

/-- The parameters, the Trap Controller's bank and the orchestrator's are as before. -/
def SameControl (s t : State) : Prop := t.cfg = s.cfg ∧ t.trBank = s.trBank ∧ t.orch = s.orch

/-- The CSR bank after an instruction that completes and writes no CSR: five cycles and one retirement more (10_state.md R34, R35,
70_reset_and_hazards.md R486), every other register as before. -/
def countedCsr (f : CsrFile) : CsrFile := { f with cycles := f.cycles + 5, instret := f.instret + 1 }

/-- The CSR bank after a delivered exception: the context saved, `n` cycles more, no retirement (60_exceptions.md R412, R420). -/
def trappedCsr (f : CsrFile) (n : BitVec 64) (mepc mcause mtval : Word) : CsrFile :=
  { f with cycles := f.cycles + n, mepc := mepc, mcause := mcause, mtval := mtval }

/-- An exception of the instruction at `FA` is delivered: the three CSRs saved (R410, R411), the next fetch at the handler address read from the
vector table (R421, R423), the pipeline flushed (R204), the machine back in pipeline mode (R423), and nothing else changed (R412). -/
def Delivered (s t : State) (n : BitVec 64) (cause mtval : Word) : Prop :=
  t.csr = trappedCsr s.csr n (s.fetchAddress + 4) cause mtval
  ∧ t.fetchAddress = s.wordAt (vectorAddress s.csr.mtvec cause)
  ∧ t.trBank = ⟨.idle, s.fetchAddress + 4, cause, mtval, s.wordAt (vectorAddress s.csr.mtvec cause)⟩
  ∧ t.orch = ⟨.pipeline, .F⟩
  ∧ t.deBank = DecodeBank.default ∧ t.exBank = ExecuteBank.default ∧ t.memBank = MemoryBank.default
  ∧ SameRegs s t ∧ SameMemory s t ∧ t.cfg = s.cfg

/-- An exception of the instruction at `FA` cannot be delivered: accepted in its `n`th cycle with its context latched (60_exceptions.md R410, R411, R416),
the pipeline flushed (40_pipeline.md R204), no CSR but `cycles` and no register or byte changed, and the next step the fault that is the model's
answer for FATAL (R428; DESIGN CHOICE, log 2). -/
def Undelivered (s t : State) (n : BitVec 64) (cause mtval : Word) : Prop :=
  t.fatalNext ∧ step t = .fault .fatalVectorRead
  ∧ t.trBank = ⟨.setCsrAndComputeVector, s.fetchAddress + 4, cause, mtval, s.trBank.pcToSet⟩
  ∧ t.csr = { s.csr with cycles := s.csr.cycles + n }
  ∧ t.orch = ⟨.trap, .F⟩
  ∧ t.ifBank = FetchBank.default ∧ t.deBank = DecodeBank.default ∧ t.exBank = ExecuteBank.default ∧ t.memBank = MemoryBank.default
  ∧ SameRegs s t ∧ SameMemory s t ∧ t.cfg = s.cfg

/-- An instruction completes: registers as `regs` says, the next fetch at `next`, the CSR bank `csr`, the parameters, the Trap Controller and the
orchestrator as before. What it does to memory is said beside it. -/
def Completes (s t : State) (regs : Prop) (next : Word) (csr : CsrFile) : Prop :=
  regs ∧ t.fetchAddress = next ∧ t.csr = csr ∧ SameControl s t

/-- Byte `k`, in address order, of the low `8n` bits a store of a width writes (20_memory.md R90, R97). -/
def storedByte (w : Width) (v : Word) (k : Nat) : Byte := v.extractLsb' (8 * (w.bytes - 1 - k)) 8

/-- The entry of the vector table for a cause can be read (60_exceptions.md R420). -/
def vectorReadable (s : State) (cause : Word) : Bool := mapped (vectorAddress s.csr.mtvec cause)

/-- The bytes a store of a width at a bus address leaves: the stored ones at their home addresses, every other byte as before. -/
def StoredAt (s t : State) (ea : Word) (w : Width) (v : Word) : Prop :=
  ∀ a : Nat, t.mem.read a =
    if homeAddress s.cfg ea ≤ a ∧ a < homeAddress s.cfg ea + w.bytes then storedByte w v (a - homeAddress s.cfg ea)
    else s.mem.read a

/-! ## What an instruction's statement concludes: that it answers a next state, and which -/

/-- It completes with `x[rd] <- v`, goes on at `next`, and changes nothing else but the two counters. -/
def Writes (s : State) (i : Instr) (rd : RegIdx) (v next : Word) : Prop :=
  ∃ t, exec i s = .next t ∧ Completes s t (WroteReg s t rd v) next (countedCsr s.csr) ∧ SameMemory s t

/-- It completes with `x[rd] <- v`, goes on at `pc + 4`, and changes nothing else but the two counters. -/
def Yields (s : State) (i : Instr) (rd : RegIdx) (v : Word) : Prop := Writes s i rd v (s.fetchAddress + 4)

/-- It completes, goes on at `next`, and changes nothing but the two counters. -/
def GoesTo (s : State) (i : Instr) (next : Word) : Prop :=
  ∃ t, exec i s = .next t ∧ Completes s t (SameRegs s t) next (countedCsr s.csr) ∧ SameMemory s t

/-- It completes with the low bytes of `v` stored at a RAM address, goes on at `pc + 4`, and changes nothing else but the two counters. -/
def Stores (s : State) (i : Instr) (ea : Word) (w : Width) (v : Word) : Prop :=
  ∃ t, exec i s = .next t ∧ Completes s t (SameRegs s t) (s.fetchAddress + 4) (countedCsr s.csr) ∧ StoredAt s t ea w v

/-- It completes with `x[rd] <- v` and the CSR bank `csr`, goes on at `pc + 4`, and changes nothing else. -/
def AccessesCsr (s : State) (i : Instr) (rd : RegIdx) (v : Word) (csr : CsrFile) : Prop :=
  ∃ t, exec i s = .next t ∧ Completes s t (WroteReg s t rd v) (s.fetchAddress + 4) csr ∧ SameMemory s t

/-- It raises an exception that is delivered in `n` cycles. -/
def Raises (s : State) (i : Instr) (n : BitVec 64) (cause mtval : Word) : Prop :=
  ∃ t, exec i s = .next t ∧ Delivered s t n cause mtval

/-- It raises an exception that cannot be delivered, accepted in its `n`th cycle. -/
def Strands (s : State) (i : Instr) (n : BitVec 64) (cause mtval : Word) : Prop :=
  ∃ t, exec i s = .next t ∧ Undelivered s t n cause mtval

/-! ## Words for the cycle level -/

/-- No request stands (40_pipeline.md R202). -/
def State.quiet (s : State) : Prop := s.memBank.trap = false ∧ s.deBank.trap = false ∧ s.deBank.mret = false

/-- The coming cycle evaluates this stage (40_pipeline.md R196, R200). -/
def State.inSlot (s : State) (slot : Slot) : Prop := s.orch = ⟨.pipeline, slot⟩ ∧ s.quiet

/-- The nine control signals (10_state.md R64), in the order of that table. -/
def DecodeBank.signals (d : DecodeBank) : List Bool :=
  [d.isAluOperation, d.isStore, d.isLoad, d.isLUI, d.isAUIPC, d.isBranch, d.isJAL, d.isJump, d.isSystem]

/-- The seven class flags of the Execute bank, in the same order. -/
def ExecuteBank.signals (x : ExecuteBank) : List Bool :=
  [x.isAluOperation, x.isStore, x.isLoad, x.isLUI, x.isAUIPC, x.isJump, x.isSystem]

/-- The trap context a stage's bank holds. -/
def DecodeBank.context (d : DecodeBank) : TrapContext := ⟨d.mepc, d.mcause, d.mtval⟩

def MemoryBank.context (m : MemoryBank) : TrapContext := ⟨m.mepc, m.mcause, m.mtval⟩

/-- The latch (60_exceptions.md R416). -/
def TrapBank.latch (b : TrapBank) : TrapContext := ⟨b.mepc, b.mcause, b.mtval⟩

/-- The five CSRs no hardware reads (60_exceptions.md R441, 10_state.md R45, R48), replaced. -/
def State.withInert (s : State) (mstatus misa mie mip mscratch : Word) : State :=
  { s with csr := { s.csr with mstatus := mstatus, misa := misa, mie := mie, mip := mip, mscratch := mscratch } }

/-- A cycle's or step's next state under a function; a stop is kept. -/
def mapNext (f : State → State) : Result → Result
  | .next t => .next (f t)
  | .fault e => .fault e
  | .refused r => .refused r

end Sys2Proof.Machine
end

