-- ==== Sys2Proof/Certificates/Slice0/Obligations.lean ====
section
/-!
DEFINITION. The statements for the provers, in the order of OBLIGATIONS.json. A docstring names the rule a statement formalises; where the spec
marks that rule as its own decision D<n> or derivation, the docstring says so.
-/
section

open Sys2Proof Sys2Proof.Machine

/-! ## Reset and boot -/

/-- O1. 10_state.md R72, with an empty `ROM_IMAGE` and `CSR_BOOT` (DESIGN CHOICE, log 8). The values are the spec's decisions D1, D21, D23, D24, D34 (DEDUCED, log 6);
RAM is left out (DESIGN CHOICE, log 4). -/
def Obligations.ResetState : Prop :=
  let s := State.reset
  (∀ r : RegIdx, s.reg r = 0)
  ∧ s.fetchAddress = 0x10000000#32
  ∧ s.ifBank = ⟨0x10000000#32, 0x10000000#32, 0x10000000#32⟩
  ∧ s.deBank = DecodeBank.default ∧ s.exBank = ExecuteBank.default ∧ s.memBank = MemoryBank.default
  ∧ s.trBank = ⟨.idle, 0, 0, 0, 0⟩ ∧ s.orch = ⟨.pipeline, .F⟩
  ∧ s.csr.cycles = 0 ∧ s.csr.instret = 0 ∧ s.csr.misa = 0x40000100#32 ∧ s.csr.mstatus = 0 ∧ s.csr.mie = 0 ∧ s.csr.mtvec = 0
  ∧ s.csr.mscratch = 0 ∧ s.csr.mepc = 0 ∧ s.csr.mcause = 0 ∧ s.csr.mtval = 0 ∧ s.csr.mip = 0
  ∧ ∀ a : Word, region a = .rom → s.wordAt a = 0xFFFFFFFF#32

/-- O2. 70_reset_and_hazards.md R464 (D23), 20_memory.md R82 (D26) and R86: for which parameters a first state exists, and what it holds.
The spec refuses only a long `ROM_IMAGE` (U10) and its `RAM_INIT` is a function of the word index; that `RAM_INIT` is a list here, and that a list longer
than the RAM has no first state, is the model's choice (DESIGN CHOICE, log 4), and so is the 0 of the words past its end, which is not claimed. -/
def Obligations.BootState : Prop :=
  ∀ p : BootParams,
    ((∃ s, boot p = .ok s) ↔
      (p.cfg.wf = true ∧ 4 * p.romImage.length ≤ p.cfg.romSize ∧ 4 * p.ramInit.length ≤ p.cfg.ramSize))
    ∧ ∀ s, boot p = .ok s →
      s.cfg = p.cfg
      ∧ s.csr.mstatus = p.csrBoot.mstatus.getD 0 &&& p.cfg.mstatusMask
      ∧ s.csr.misa = p.csrBoot.misa.getD 0x40000100#32
      ∧ s.csr.mie = p.csrBoot.mie.getD 0 ∧ s.csr.mtvec = p.csrBoot.mtvec.getD 0 ∧ s.csr.mscratch = p.csrBoot.mscratch.getD 0
      ∧ s.csr.mepc = p.csrBoot.mepc.getD 0 ∧ s.csr.mcause = p.csrBoot.mcause.getD 0 ∧ s.csr.mtval = p.csrBoot.mtval.getD 0
      ∧ s.csr.mip = p.csrBoot.mip.getD 0 ∧ s.csr.cycles = 0 ∧ s.csr.instret = 0
      ∧ (∀ r : RegIdx, s.reg r = 0) ∧ s.fetchAddress = 0x10000000#32 ∧ s.atFetch = true
      ∧ (∀ a : Word, region a = .rom →
          s.wordAt a = p.romImage.getD (a.toNat % 2 ^ 28 % p.cfg.romSize / 4) 0xFFFFFFFF#32)
      ∧ (∀ a : Word, region a = .ram → ∀ v, p.ramInit[a.toNat % 2 ^ 28 % p.cfg.ramSize / 4]? = some v → s.wordAt a = v)

/-! ## Integer computational instructions (41_integer_computational.md) -/

/-- O3. R261, R262 (marked by the spec "[derived: from 40_pipeline.md rules …]"), with the frame of R260. -/
def Obligations.UpperImmediateResults : Prop :=
  ∀ (s : State) (rd : RegIdx) (imm : BitVec 20),
    Yields s (.lui rd imm) rd (imm ++ 0#12)
    ∧ Yields s (.auipc rd imm) rd (s.fetchAddress + (imm ++ 0#12))

/-- O4. R263 to R268 (marked "[derived: from 40_pipeline.md rules R230, R231, R245 and R250]"), with the frame of R260. -/
def Obligations.RegisterImmediateResults : Prop :=
  ∀ (s : State) (rd rs1 : RegIdx) (imm : BitVec 12),
    let a := s.reg rs1
    let b : Word := imm.signExtend 32
    Yields s (.addi rd rs1 imm) rd (a + b)
    ∧ Yields s (.slti rd rs1 imm) rd (if a.slt b then 1 else 0)
    ∧ Yields s (.sltiu rd rs1 imm) rd (if a.ult b then 1 else 0)
    ∧ Yields s (.xori rd rs1 imm) rd (a ^^^ b)
    ∧ Yields s (.ori rd rs1 imm) rd (a ||| b)
    ∧ Yields s (.andi rd rs1 imm) rd (a &&& b)

/-- O5. R269 to R271 (marked "[derived: …]"): the amount is the `shamt` field, 0 to 31. -/
def Obligations.ImmediateShiftResults : Prop :=
  ∀ (s : State) (rd rs1 : RegIdx) (shamt : BitVec 5),
    Yields s (.slli rd rs1 shamt) rd (s.reg rs1 <<< shamt.toNat)
    ∧ Yields s (.srli rd rs1 shamt) rd (s.reg rs1 >>> shamt.toNat)
    ∧ Yields s (.srai rd rs1 shamt) rd ((s.reg rs1).sshiftRight shamt.toNat)

/-- O6. R272, R273, R275 to R277, R280, R281 (marked "[derived: …]"). -/
def Obligations.RegisterRegisterResults : Prop :=
  ∀ (s : State) (rd rs1 rs2 : RegIdx),
    let a := s.reg rs1
    let b := s.reg rs2
    Yields s (.add rd rs1 rs2) rd (a + b)
    ∧ Yields s (.sub rd rs1 rs2) rd (a - b)
    ∧ Yields s (.slt rd rs1 rs2) rd (if a.slt b then 1 else 0)
    ∧ Yields s (.sltu rd rs1 rs2) rd (if a.ult b then 1 else 0)
    ∧ Yields s (.xor rd rs1 rs2) rd (a ^^^ b)
    ∧ Yields s (.or rd rs1 rs2) rd (a ||| b)
    ∧ Yields s (.and rd rs1 rs2) rd (a &&& b)

/-- O7. R274, R278, R279 (marked "[derived: …]"): only the low five bits of `x[rs2]` count (30_encoding.md R139, decision D36). -/
def Obligations.RegisterShiftResults : Prop :=
  ∀ (s : State) (rd rs1 rs2 : RegIdx),
    let n := (s.reg rs2).toNat % 32
    Yields s (.sll rd rs1 rs2) rd (s.reg rs1 <<< n)
    ∧ Yields s (.srl rd rs1 rs2) rd (s.reg rs1 >>> n)
    ∧ Yields s (.sra rd rs1 rs2) rd ((s.reg rs1).sshiftRight n)

/-! ## Control transfer (42_control_transfer.md) -/

/-- O8. R301, R302 (marked "[derived: …]"): link and target, the JALR target from the old `x[rs1]` with bit 0 kept; no target is checked here
(R310, decision D12). -/
def Obligations.JumpResults : Prop :=
  ∀ (s : State) (rd rs1 : RegIdx) (offset : BitVec 21) (imm : BitVec 12),
    Writes s (.jal rd offset) rd (s.fetchAddress + 4) (s.fetchAddress + offset.signExtend 32)
    ∧ Writes s (.jalr rd rs1 imm) rd (s.fetchAddress + 4) (s.reg rs1 + imm.signExtend 32)

/-- O9. R303 to R308 (marked "[derived: …]"): each branch's condition, where it goes, and that it writes nothing. -/
def Obligations.BranchResults : Prop :=
  ∀ (s : State) (rs1 rs2 : RegIdx) (offset : BitVec 13),
    let a := s.reg rs1
    let b := s.reg rs2
    let target := s.fetchAddress + offset.signExtend 32
    let sequential := s.fetchAddress + 4
    GoesTo s (.beq rs1 rs2 offset) (if a = b then target else sequential)
    ∧ GoesTo s (.bne rs1 rs2 offset) (if a = b then sequential else target)
    ∧ GoesTo s (.blt rs1 rs2 offset) (if a.slt b then target else sequential)
    ∧ GoesTo s (.bge rs1 rs2 offset) (if a.slt b then sequential else target)
    ∧ GoesTo s (.bltu rs1 rs2 offset) (if a.ult b then target else sequential)
    ∧ GoesTo s (.bgeu rs1 rs2 offset) (if a.ult b then sequential else target)

/-! ## Loads and stores (43_load_store.md) -/

/-- O10. R331 to R335 (marked "[derived: …]"): on an aligned and mapped address each load completes with its bytes, the first one the most
significant (20_memory.md R90, decision D31), sign- or zero-extended. -/
def Obligations.LoadResults : Prop :=
  ∀ (s : State) (rd rs1 : RegIdx) (imm : BitVec 12),
    let ea := s.effectiveAddress rs1 imm
    s.cfg.wf = true → mapped ea = true →
      Yields s (.lb rd rs1 imm) rd ((s.byteAt ea).signExtend 32)
      ∧ Yields s (.lbu rd rs1 imm) rd ((s.byteAt ea).setWidth 32)
      ∧ (ea.toNat % 2 = 0 →
          Yields s (.lh rd rs1 imm) rd ((s.byteAt ea ++ s.byteAt (ea + 1)).signExtend 32)
          ∧ Yields s (.lhu rd rs1 imm) rd ((s.byteAt ea ++ s.byteAt (ea + 1)).setWidth 32))
      ∧ (ea.toNat % 4 = 0 →
          Yields s (.lw rd rs1 imm) rd (s.byteAt ea ++ s.byteAt (ea + 1) ++ s.byteAt (ea + 2) ++ s.byteAt (ea + 3)))

/-- O11. R340 for loads (decisions D7, D8, D10, D11, D13): alignment is checked before mapping, and the exception is delivered in seven cycles with
`mtval` the instruction word. -/
def Obligations.LoadTraps : Prop :=
  ∀ (s : State) (rd rs1 : RegIdx) (imm : BitVec 12),
    let ea := s.effectiveAddress rs1 imm
    (vectorReadable s 4 = true → ea.toNat % 2 = 1 →
      Raises s (.lh rd rs1 imm) 7 4 (encode (.lh rd rs1 imm)) ∧ Raises s (.lhu rd rs1 imm) 7 4 (encode (.lhu rd rs1 imm)))
    ∧ (vectorReadable s 4 = true → ea.toNat % 4 ≠ 0 → Raises s (.lw rd rs1 imm) 7 4 (encode (.lw rd rs1 imm)))
    ∧ (vectorReadable s 5 = true → mapped ea = false →
        Raises s (.lb rd rs1 imm) 7 5 (encode (.lb rd rs1 imm)) ∧ Raises s (.lbu rd rs1 imm) 7 5 (encode (.lbu rd rs1 imm))
        ∧ (ea.toNat % 2 = 0 →
            Raises s (.lh rd rs1 imm) 7 5 (encode (.lh rd rs1 imm)) ∧ Raises s (.lhu rd rs1 imm) 7 5 (encode (.lhu rd rs1 imm)))
        ∧ (ea.toNat % 4 = 0 → Raises s (.lw rd rs1 imm) 7 5 (encode (.lw rd rs1 imm))))

/-- O12. R336 to R338 (marked "[derived: …]"): on an aligned RAM address each store completes with the low bytes of `x[rs2]` at the effective
address, and every other byte as before. -/
def Obligations.StoreResults : Prop :=
  ∀ (s : State) (rs2 rs1 : RegIdx) (imm : BitVec 12),
    let ea := s.effectiveAddress rs1 imm
    s.cfg.wf = true → s.mem.wf = true → region ea = .ram →
      Stores s (.sb rs2 rs1 imm) ea .byte (s.reg rs2)
      ∧ (ea.toNat % 2 = 0 → Stores s (.sh rs2 rs1 imm) ea .half (s.reg rs2))
      ∧ (ea.toNat % 4 = 0 → Stores s (.sw rs2 rs1 imm) ea .word (s.reg rs2))

/-- O13. 20_memory.md R87 (decision D27): an aligned store to the ROM window retires and changes nothing. -/
def Obligations.StoreToRomIsIgnored : Prop :=
  ∀ (s : State) (rs2 rs1 : RegIdx) (imm : BitVec 12),
    let ea := s.effectiveAddress rs1 imm
    region ea = .rom →
      GoesTo s (.sb rs2 rs1 imm) (s.fetchAddress + 4)
      ∧ (ea.toNat % 2 = 0 → GoesTo s (.sh rs2 rs1 imm) (s.fetchAddress + 4))
      ∧ (ea.toNat % 4 = 0 → GoesTo s (.sw rs2 rs1 imm) (s.fetchAddress + 4))

/-- O14. R340 for stores (decisions D7, D8, D10, D11, D13); a misaligned address in ROM traps too. -/
def Obligations.StoreTraps : Prop :=
  ∀ (s : State) (rs2 rs1 : RegIdx) (imm : BitVec 12),
    let ea := s.effectiveAddress rs1 imm
    (vectorReadable s 6 = true → ea.toNat % 2 = 1 → Raises s (.sh rs2 rs1 imm) 7 6 (encode (.sh rs2 rs1 imm)))
    ∧ (vectorReadable s 6 = true → ea.toNat % 4 ≠ 0 → Raises s (.sw rs2 rs1 imm) 7 6 (encode (.sw rs2 rs1 imm)))
    ∧ (vectorReadable s 7 = true → mapped ea = false →
        Raises s (.sb rs2 rs1 imm) 7 7 (encode (.sb rs2 rs1 imm))
        ∧ (ea.toNat % 2 = 0 → Raises s (.sh rs2 rs1 imm) 7 7 (encode (.sh rs2 rs1 imm)))
        ∧ (ea.toNat % 4 = 0 → Raises s (.sw rs2 rs1 imm) 7 7 (encode (.sw rs2 rs1 imm))))

/-! ## CSR and system instructions (44_system_csr.md) -/

/-- O15. R364, R367 (marked "[derived: …]"), with R363 (decisions D20 to D22): on each writable CSR the two read-write forms return the old value
and write the source. -/
def Obligations.CsrReadWriteResults : Prop :=
  ∀ (s : State) (rd rs1 : RegIdx) (uimm : BitVec 5) (c : Csr), csrReadOnly (csrAddress c) = false →
    AccessesCsr s (.csrrw rd (csrAddress c) rs1) rd (csrValue s.csr c)
      (csrStore s.cfg.mstatusMask (countedCsr s.csr) (s.reg rs1) c)
    ∧ AccessesCsr s (.csrrwi rd (csrAddress c) uimm) rd (csrValue s.csr c)
      (csrStore s.cfg.mstatusMask (countedCsr s.csr) (uimm.setWidth 32) c)

/-- O16. R365, R366, R368, R369 (marked "[derived: …]"): the four set and clear forms. With a zero field each is a pure read, legal on all nineteen
CSRs, a counter read as it stands in the M cycle (R370); otherwise it writes a writable CSR, whatever the source's value. -/
def Obligations.CsrSetClearResults : Prop :=
  ∀ (s : State) (rd : RegIdx) (c : Csr),
    let a := csrAddress c
    let old := csrValue { s.csr with cycles := s.csr.cycles + 3 } c
    let stored := fun v => csrStore s.cfg.mstatusMask (countedCsr s.csr) v c
    AccessesCsr s (.csrrs rd a 0) rd old (countedCsr s.csr)
    ∧ AccessesCsr s (.csrrc rd a 0) rd old (countedCsr s.csr)
    ∧ AccessesCsr s (.csrrsi rd a 0) rd old (countedCsr s.csr)
    ∧ AccessesCsr s (.csrrci rd a 0) rd old (countedCsr s.csr)
    ∧ ∀ field : BitVec 5, field ≠ 0 → csrReadOnly a = false →
        AccessesCsr s (.csrrs rd a field) rd old (stored (old ||| s.reg field))
        ∧ AccessesCsr s (.csrrc rd a field) rd old (stored (old &&& ~~~(s.reg field)))
        ∧ AccessesCsr s (.csrrsi rd a field) rd old (stored (old ||| field.setWidth 32))
        ∧ AccessesCsr s (.csrrci rd a field) rd old (stored (old &&& ~~~(field.setWidth 32 : Word)))

/-- O17. R361 (decisions D14, D15): an unknown address traps in all six forms, a read-only one in the forms that write. -/
def Obligations.CsrTraps : Prop :=
  ∀ (s : State) (rd : RegIdx) (a : CsrAddr) (field : BitVec 5), vectorReadable s 2 = true →
    ((∀ c : Csr, csrAddress c ≠ a) ∨ csrReadOnly a = true →
      Raises s (.csrrw rd a field) 7 2 (encode (.csrrw rd a field)) ∧ Raises s (.csrrwi rd a field) 7 2 (encode (.csrrwi rd a field)))
    ∧ ((∀ c : Csr, csrAddress c ≠ a) ∨ (csrReadOnly a = true ∧ field ≠ 0) →
        Raises s (.csrrs rd a field) 7 2 (encode (.csrrs rd a field)) ∧ Raises s (.csrrc rd a field) 7 2 (encode (.csrrc rd a field))
        ∧ Raises s (.csrrsi rd a field) 7 2 (encode (.csrrsi rd a field))
        ∧ Raises s (.csrrci rd a field) 7 2 (encode (.csrrci rd a field)))

/-- O18. R363's table (decisions D20 to D22), read back through R362's: a write of a writable CSR is read back whole, `mstatus` masked, and every
CSR the write does not name reads as before. -/
def Obligations.CsrWriteIsReadBack : Prop :=
  ∀ (mask : Word) (f : CsrFile) (v : Word) (c d : Csr), csrReadOnly (csrAddress c) = false →
    csrRead (csrWrite mask f (csrAddress c) v) (csrAddress c) = (if c = .mstatus then v &&& mask else v)
    ∧ (d ≠ c → csrRead (csrWrite mask f (csrAddress c) v) (csrAddress d) = csrRead f (csrAddress d))

/-- O19. R375 (decisions D18, D19, D38), 60_exceptions.md R430: the next instruction is at `mepc`, all 32 bits; five cycles, no retirement, `mstatus`
and every other CSR, every register, memory and the latch as before. -/
def Obligations.MretResult : Prop :=
  ∀ s : State, ∃ t, exec .mret s = .next t
    ∧ t.fetchAddress = s.csr.mepc ∧ t.csr = { s.csr with cycles := s.csr.cycles + 5 }
    ∧ SameRegs s t ∧ SameMemory s t ∧ t.cfg = s.cfg
    ∧ t.trBank = { s.trBank with state := .idle, pcToSet := s.csr.mepc } ∧ t.orch = ⟨.pipeline, .F⟩

/-- O20. R380 to R383 (decision D17): the six instructions of these opcode spaces that the hardware does not admit have the effect of taking
IllegalInstruction, with the word in `mtval`. -/
def Obligations.UnadmittedInstructions : Prop :=
  ∀ (s : State) (fm pred succ : BitVec 4) (rs1 rd : RegIdx), vectorReadable s 2 = true →
    Raises s .ecall 5 2 0x00000073#32 ∧ Raises s .ebreak 5 2 0x00100073#32
    ∧ Raises s .wfi 5 2 0x10500073#32 ∧ Raises s .sret 5 2 0x10200073#32
    ∧ Raises s (.fence fm pred succ rs1 rd) 5 2 (fm ++ pred ++ succ ++ rs1 ++ 0b000#3 ++ rd ++ 0b0001111#7)
    ∧ Raises s (.fenceI fm pred succ rs1 rd) 5 2 (fm ++ pred ++ succ ++ rs1 ++ 0b001#3 ++ rd ++ 0b0001111#7)

/-! ## One step -/

/-- O21. A step runs the decoded instruction (00_scope.md section 7, R19, marked "[derived: …]"): at a Fetch slot the word at the fetch address, aligned and
mapped, is decoded and run; anywhere else a step is one clock cycle (DEDUCED, log 1). -/
def Obligations.StepRunsTheDecodedInstruction : Prop :=
  ∀ (s : State) (i : Instr),
    (s.atFetch = true → s.fetchAddress.toNat % 4 = 0 → mapped s.fetchAddress = true →
      decode (s.wordAt s.fetchAddress) = .ok i → step s = exec i s)
    ∧ (s.atFetch = false → step s = cycle s)

/-- O22. 60_exceptions.md R402, R403 (decisions D7, D8, D12): a misaligned fetch address before an unmapped one, `mtval` the address. -/
def Obligations.FetchFaultTraps : Prop :=
  ∀ s : State, s.atFetch = true →
    (s.fetchAddress.toNat % 4 ≠ 0 → vectorReadable s 0 = true →
      ∃ t, step s = .next t ∧ Delivered s t 5 0 s.fetchAddress)
    ∧ (s.fetchAddress.toNat % 4 = 0 → mapped s.fetchAddress = false → vectorReadable s 1 = true →
      ∃ t, step s = .next t ∧ Delivered s t 5 1 s.fetchAddress)

/-- O23. 30_encoding.md R158 (decision D16), 60_exceptions.md R404 (a): every fetched word that is not legal takes IllegalInstruction, named or not. -/
def Obligations.IllegalWordTraps : Prop :=
  ∀ s : State, s.atFetch = true → s.fetchAddress.toNat % 4 = 0 → mapped s.fetchAddress = true →
    legal (s.wordAt s.fetchAddress) = false → vectorReadable s 2 = true →
      ∃ t, step s = .next t ∧ Delivered s t 5 2 (s.wordAt s.fetchAddress)

/-- O24. 60_exceptions.md R428 (decision D29; DESIGN CHOICE, log 2): the one condition that stops the machine, and no instruction is refused. -/
def Obligations.OnlyFatalStops : Prop :=
  ∀ s : State,
    (step s = .fault .fatalVectorRead ↔ s.fatalNext) ∧ (cycle s = .fault .fatalVectorRead ↔ s.fatalNext)
    ∧ ∀ r, step s ≠ .refused r ∧ cycle s ≠ .refused r

/-- O25. 60_exceptions.md R428 (decision D29), R402 to R408, R410, R411, R416, 43_load_store.md R340, 44_system_csr.md R361, R380 to R383: each exception
whose vector entry is unmapped is accepted with its own context latched and nothing saved, and the next step is FATAL (the fault is the model's answer:
DESIGN CHOICE, log 2); and every step from a Fetch slot to a FATAL-bound state is of this kind. -/
def Obligations.UndeliveredException : Prop :=
  (∀ (s : State) (rd rs1 : RegIdx) (imm : BitVec 12),
    let ea := s.effectiveAddress rs1 imm
    (vectorReadable s 4 = false → ea.toNat % 2 = 1 →
      Strands s (.lh rd rs1 imm) 5 4 (encode (.lh rd rs1 imm)) ∧ Strands s (.lhu rd rs1 imm) 5 4 (encode (.lhu rd rs1 imm)))
    ∧ (vectorReadable s 4 = false → ea.toNat % 4 ≠ 0 → Strands s (.lw rd rs1 imm) 5 4 (encode (.lw rd rs1 imm)))
    ∧ (vectorReadable s 5 = false → mapped ea = false →
        Strands s (.lb rd rs1 imm) 5 5 (encode (.lb rd rs1 imm)) ∧ Strands s (.lbu rd rs1 imm) 5 5 (encode (.lbu rd rs1 imm))
        ∧ (ea.toNat % 2 = 0 →
            Strands s (.lh rd rs1 imm) 5 5 (encode (.lh rd rs1 imm)) ∧ Strands s (.lhu rd rs1 imm) 5 5 (encode (.lhu rd rs1 imm)))
        ∧ (ea.toNat % 4 = 0 → Strands s (.lw rd rs1 imm) 5 5 (encode (.lw rd rs1 imm)))))
  ∧ (∀ (s : State) (rs2 rs1 : RegIdx) (imm : BitVec 12),
    let ea := s.effectiveAddress rs1 imm
    (vectorReadable s 6 = false → ea.toNat % 2 = 1 → Strands s (.sh rs2 rs1 imm) 5 6 (encode (.sh rs2 rs1 imm)))
    ∧ (vectorReadable s 6 = false → ea.toNat % 4 ≠ 0 → Strands s (.sw rs2 rs1 imm) 5 6 (encode (.sw rs2 rs1 imm)))
    ∧ (vectorReadable s 7 = false → mapped ea = false →
        Strands s (.sb rs2 rs1 imm) 5 7 (encode (.sb rs2 rs1 imm))
        ∧ (ea.toNat % 2 = 0 → Strands s (.sh rs2 rs1 imm) 5 7 (encode (.sh rs2 rs1 imm)))
        ∧ (ea.toNat % 4 = 0 → Strands s (.sw rs2 rs1 imm) 5 7 (encode (.sw rs2 rs1 imm)))))
  ∧ (∀ (s : State) (rd : RegIdx) (a : CsrAddr) (field : BitVec 5), vectorReadable s 2 = false →
    ((∀ c : Csr, csrAddress c ≠ a) ∨ csrReadOnly a = true →
      Strands s (.csrrw rd a field) 5 2 (encode (.csrrw rd a field)) ∧ Strands s (.csrrwi rd a field) 5 2 (encode (.csrrwi rd a field)))
    ∧ ((∀ c : Csr, csrAddress c ≠ a) ∨ (csrReadOnly a = true ∧ field ≠ 0) →
        Strands s (.csrrs rd a field) 5 2 (encode (.csrrs rd a field)) ∧ Strands s (.csrrc rd a field) 5 2 (encode (.csrrc rd a field))
        ∧ Strands s (.csrrsi rd a field) 5 2 (encode (.csrrsi rd a field))
        ∧ Strands s (.csrrci rd a field) 5 2 (encode (.csrrci rd a field))))
  ∧ (∀ (s : State) (fm pred succ : BitVec 4) (rs1 rd : RegIdx), vectorReadable s 2 = false →
    Strands s .ecall 3 2 0x00000073#32 ∧ Strands s .ebreak 3 2 0x00100073#32
    ∧ Strands s .wfi 3 2 0x10500073#32 ∧ Strands s .sret 3 2 0x10200073#32
    ∧ Strands s (.fence fm pred succ rs1 rd) 3 2 (fm ++ pred ++ succ ++ rs1 ++ 0b000#3 ++ rd ++ 0b0001111#7)
    ∧ Strands s (.fenceI fm pred succ rs1 rd) 3 2 (fm ++ pred ++ succ ++ rs1 ++ 0b001#3 ++ rd ++ 0b0001111#7))
  ∧ (∀ s : State, s.atFetch = true →
    let fa := s.fetchAddress
    (fa.toNat % 4 ≠ 0 → vectorReadable s 0 = false → ∃ t, step s = .next t ∧ Undelivered s t 3 0 fa)
    ∧ (fa.toNat % 4 = 0 → mapped fa = false → vectorReadable s 1 = false → ∃ t, step s = .next t ∧ Undelivered s t 3 1 fa)
    ∧ (fa.toNat % 4 = 0 → mapped fa = true → legal (s.wordAt fa) = false → vectorReadable s 2 = false →
        ∃ t, step s = .next t ∧ Undelivered s t 3 2 (s.wordAt fa)))
  ∧ ∀ s t : State, s.atFetch = true → step s = .next t → t.fatalNext →
      hardwareCause t.trBank.mcause = true ∧ vectorReadable s t.trBank.mcause = false
      ∧ ∃ n, (n = 3 ∨ n = 5) ∧ Undelivered s t n t.trBank.mcause t.trBank.mtval

/-! ## Encoding (30_encoding.md) -/

/-- O26. Words written out from R132, R142, R151 to R156, and the source's own two (R263). The encodings are the spec's decisions D18, D40. -/
def Obligations.DecodeWordsRight : Prop :=
  decode 0b000000000010_00000_000_00001_0010011#32 = .ok (.addi 1 0 2)
  ∧ decode 0b000000000001_00001_000_00010_0010011#32 = .ok (.addi 2 1 1)
  ∧ decode 0b00010010001101000101_00101_0110111#32 = .ok (.lui 5 0x12345)
  ∧ decode 0b0_0000001000_0_00000000_00001_1101111#32 = .ok (.jal 1 16)
  ∧ decode 0b1_111111_00000_00001_001_1100_1_1100011#32 = .ok (.bne 1 0 (-8))
  ∧ decode 0b0100000_00010_00001_000_00011_0110011#32 = .ok (.sub 3 1 2)
  ∧ decode 0b0100000_00100_00001_101_00011_0010011#32 = .ok (.srai 3 1 4)
  ∧ decode 0b0000010_00010_00001_010_00000_0100011#32 = .ok (.sw 2 1 64)
  ∧ decode 0b000000000010_00001_001_00110_0000011#32 = .ok (.lh 6 1 2)
  ∧ decode 0b001101000000_00101_111_00011_1110011#32 = .ok (.csrrci 3 0x340 5)
  ∧ decode 0b0011000_00010_00000_000_00000_1110011#32 = .ok .mret

/-- O27. Decode and encode agree: no bit of an operand is dropped, for every well-formed instruction and every operand value (R131 to R137, R142,
R151 to R156; the encodings are decision D40). -/
def Obligations.DecodeEncode : Prop :=
  ∀ i : Instr, i.wf = true → decode (encode i) = .ok i

/-- O28. The other direction: a word that decodes is the encoding of a well-formed instruction, and matches that instruction's row of
spec/opcode_table.json. -/
def Obligations.EncodeDecode : Prop :=
  ∀ (w : Word) (i : Instr), decode w = .ok i → encode i = w ∧ i.wf = true ∧ w &&& i.tableRow.mask = i.tableRow.value

/-- O29. R158 (decision D16): a word is legal exactly where it decodes to one of the 44 instructions of R150. -/
def Obligations.LegalIffAdmitted : Prop :=
  ∀ w : Word, legal w = true ↔ ∃ i, decode w = .ok i ∧ i.admitted = true

/-! ## Invariants -/

/-- O30. -/
def Obligations.ResetKeepsInvariant : Prop := State.reset.Inv

/-- O31. Every first state a loader can build. -/
def Obligations.BootKeepsInvariant : Prop :=
  ∀ (p : BootParams) (s : State), boot p = .ok s → s.Inv

/-- O32. -/
def Obligations.StepKeepsInvariant : Prop :=
  ∀ s t : State, s.Inv → step s = .next t → t.Inv

/-- O33. -/
def Obligations.CycleKeepsInvariant : Prop :=
  ∀ s t : State, s.Inv → cycle s = .next t → t.Inv

/-! ## The two levels agree (00_scope.md section 7, R19) -/

/-- O34. R19 (marked "[derived: …]"), 70_reset_and_hazards.md R486 (marked "[derived: …]"): a step from a Fetch slot leaves the whole state, hidden
banks and all, that the clock cycles up to the next Fetch slot leave: five or seven of them, or three or five to a FATAL-bound state (DESIGN CHOICE, log 2). -/
def Obligations.StepIsItsCycles : Prop :=
  ∀ s : State, s.atFetch = true →
    ∃ (k : Nat) (t : State), step s = .next t ∧ runCycles k s = .next t
      ∧ ((t.atFetch = true ∧ (k = 5 ∨ k = 7)) ∨ (t.fatalNext ∧ (k = 3 ∨ k = 5)))
      ∧ t.csr.cycles = s.csr.cycles + BitVec.ofNat 64 k
      ∧ ∀ j u, 0 < j → j < k → runCycles j s = .next u → u.atFetch = false

/-! ## Memory (20_memory.md) -/

/-- O35. R81. -/
def Obligations.AddressMap : Prop :=
  ∀ a : Word,
    (region a = .rom ↔ 0x10000000 ≤ a.toNat ∧ a.toNat ≤ 0x1FFFFFFF)
    ∧ (region a = .ram ↔ 0x20000000 ≤ a.toNat ∧ a.toNat ≤ 0x2FFFFFFF)
    ∧ (region a = .unmapped ↔ a.toNat ≤ 0x0FFFFFFF ∨ 0x30000000 ≤ a.toNat)
    ∧ (mapped a = true ↔ region a ≠ .unmapped)

/-- O36. R82 (decision D26): inside its window a device repeats every `SIZE` bytes, and two addresses of one window name the same storage exactly
where their offsets `addr[27:0] & (SIZE - 1)` agree. -/
def Obligations.DevicesAreMirrored : Prop :=
  ∀ (c : Config) (a b : Word), c.wf = true → mapped a = true → region b = region a →
    (homeAddress c a = homeAddress c b ↔
      (a.toNat % 2 ^ 28) &&& (deviceSize c (region a) - 1) = (b.toNat % 2 ^ 28) &&& (deviceSize c (region a) - 1))

/-- O37. R96: the checks in order, then the selected lanes of the word at index `offset(addr) >> 2`, as an unsigned number; and in the M cycle of a
load, the only cycle beside a fetch that reads, nothing but the MemoryAccess bank, the slot and the cycle counter changes. -/
def Obligations.MemReadSelectsLanes : Prop :=
  ∀ (s : State) (a : Word), s.cfg.wf = true →
    (∀ w : Width, accessFault w a =
      if a.toNat % w.bytes ≠ 0 then some .misaligned else if region a = .unmapped then some .unmapped else none)
    ∧ (mapped a = true →
        let index := ((a.toNat % 2 ^ 28) &&& (deviceSize s.cfg (region a) - 1)) / 4
        let w := s.mem.readWord (a.toNat / 2 ^ 28 * 2 ^ 28 + 4 * index)
        busRead s.cfg s.mem .word a = w
        ∧ busRead s.cfg s.mem .half a =
            (if a.getLsbD 1 then w.extractLsb' 0 16 else w.extractLsb' 16 16).setWidth 32
        ∧ (a.toNat % 4 = 0 → busRead s.cfg s.mem .byte a = (w.extractLsb' 24 8).setWidth 32)
        ∧ (a.toNat % 4 = 1 → busRead s.cfg s.mem .byte a = (w.extractLsb' 16 8).setWidth 32)
        ∧ (a.toNat % 4 = 2 → busRead s.cfg s.mem .byte a = (w.extractLsb' 8 8).setWidth 32)
        ∧ (a.toNat % 4 = 3 → busRead s.cfg s.mem .byte a = (w.extractLsb' 0 8).setWidth 32))
    ∧ (s.inSlot .M → s.exBank.signals = [false, false, true, false, false, false, false] →
        ∃ bank : MemoryBank, cycle s = .next { s.addCycles 1 with memBank := bank, orch := ⟨.pipeline, .W⟩ })

/-- O38. R97, in the M cycle of a store: the checks, nothing for ROM, and for RAM the new word `w'`, held from that cycle's commit; no other
word of storage changes. -/
def Obligations.MemWriteReplacesItsWord : Prop :=
  ∀ s : State, s.cfg.wf = true → s.mem.wf = true → s.inSlot .M → s.exBank.signals = [false, true, false, false, false, false, false] →
    let a := s.exBank.imm32 + s.exBank.rs1
    let v := s.exBank.rs2
    let w := s.wordAt a
    ∃ t, cycle s = .next t ∧ t.cfg = s.cfg
      ∧ (accessFault (widthOf s.exBank.funct3) a ≠ none → t.mem = s.mem)
      ∧ (region a = .rom → t.mem = s.mem)
      ∧ (accessFault (widthOf s.exBank.funct3) a = none → region a = .ram →
          (∀ b : Word, mapped b = true → homeWord s.cfg b ≠ homeWord s.cfg a → t.wordAt b = s.wordAt b)
          ∧ (widthOf s.exBank.funct3 = .word → t.wordAt a = v)
          ∧ (widthOf s.exBank.funct3 = .half → t.wordAt a =
              if a.getLsbD 1 then w.extractLsb' 16 16 ++ v.extractLsb' 0 16 else v.extractLsb' 0 16 ++ w.extractLsb' 0 16)
          ∧ (widthOf s.exBank.funct3 = .byte →
              (a.toNat % 4 = 0 → t.wordAt a = v.extractLsb' 0 8 ++ w.extractLsb' 0 24)
              ∧ (a.toNat % 4 = 1 → t.wordAt a = w.extractLsb' 24 8 ++ v.extractLsb' 0 8 ++ w.extractLsb' 0 16)
              ∧ (a.toNat % 4 = 2 → t.wordAt a = w.extractLsb' 16 16 ++ v.extractLsb' 0 8 ++ w.extractLsb' 0 8)
              ∧ (a.toNat % 4 = 3 → t.wordAt a = w.extractLsb' 8 24 ++ v.extractLsb' 0 8)))

/-- O39. R98: a write and then a read of one width at one RAM address, for every width, offset and value; and the store and load instructions. -/
def Obligations.StoreLoadRoundTrip : Prop :=
  (∀ (c : Config) (m : Memory) (w : Width) (a v : Word), c.wf = true → m.wf = true → region a = .ram → a.toNat % w.bytes = 0 →
    (busRead c (busWrite c m w a v) w a).toNat = v.toNat % 2 ^ (8 * w.bytes))
  ∧ ∀ (s t : State) (rs2 rs1 base rd : RegIdx) (imm off : BitVec 12),
      let ea := s.effectiveAddress rs1 imm
      let v := s.reg rs2
      s.cfg.wf = true → s.mem.wf = true → region ea = .ram → t.effectiveAddress base off = ea →
        (exec (.sb rs2 rs1 imm) s = .next t →
          Yields t (.lb rd base off) rd ((v.setWidth 8).signExtend 32) ∧ Yields t (.lbu rd base off) rd ((v.setWidth 8).setWidth 32))
        ∧ (ea.toNat % 2 = 0 → exec (.sh rs2 rs1 imm) s = .next t →
          Yields t (.lh rd base off) rd ((v.setWidth 16).signExtend 32) ∧ Yields t (.lhu rd base off) rd ((v.setWidth 16).setWidth 32))
        ∧ (ea.toNat % 4 = 0 → exec (.sw rs2 rs1 imm) s = .next t → Yields t (.lw rd base off) rd v)

/-- O40. R86 ("ROM contents are fixed for a whole run"): no step and no cycle changes a byte of the ROM window, in any state. -/
def Obligations.RomNeverChanges : Prop :=
  ∀ s t : State, step s = .next t ∨ cycle s = .next t →
    ∀ a : Nat, romBase ≤ a → a < ramBase → t.mem.read a = s.mem.read a

/-- O41. R113 (marked "[derived: …]"): a word stored to RAM is what any later fetch from that storage reads, with no fence between, through
whichever mirror. -/
def Obligations.StoreIsFetched : Prop :=
  ∀ (s t u : State) (rs2 rs1 : RegIdx) (imm : BitVec 12),
    let ea := s.effectiveAddress rs1 imm
    s.cfg.wf = true → s.mem.wf = true → region ea = .ram → ea.toNat % 4 = 0 → exec (.sw rs2 rs1 imm) s = .next t →
      u.cfg = t.cfg → u.mem = t.mem → region u.fetchAddress = .ram → u.fetchAddress.toNat % 4 = 0 →
        homeAddress s.cfg u.fetchAddress = homeAddress s.cfg ea → u.fetch = .word (s.reg rs2)

/-! ## The stages, cycle by cycle (40_pipeline.md) -/

/-- O42. R211, at the address R210 gives. -/
def Obligations.FetchSlot : Prop :=
  ∀ s : State, s.inSlot .F →
    let fa := s.fetchAddress
    fetchHook s = some fa
    ∧ ∃ word : Word, cycle s = .next { s.addCycles 1 with ifBank := ⟨fa, fa + 4, word⟩, orch := ⟨.pipeline, .D⟩ }
      ∧ (fa.toNat % 4 = 0 → mapped fa = true → word = busRead s.cfg s.mem .word fa)
      ∧ (fa.toNat % 4 ≠ 0 ∨ mapped fa = false → word = 0)

/-- O43. R220 and R224, with the register reads beside them. -/
def Obligations.DecodeSlotFields : Prop :=
  ∀ s : State, s.inSlot .D →
    let inst := s.ifBank.instruction
    ∃ d : DecodeBank, cycle s = .next { s.addCycles 1 with deBank := d, orch := ⟨.pipeline, .E⟩ }
      ∧ d.instruction = inst ∧ d.pc = s.ifBank.pc ∧ d.pcPlus4 = s.ifBank.pcPlus4
      ∧ d.opcode = inst.extractLsb' 0 7 ∧ d.rd = inst.extractLsb' 7 5 ∧ d.funct3 = inst.extractLsb' 12 3
      ∧ d.rs1Addr = inst.extractLsb' 15 5 ∧ d.rs2Addr = inst.extractLsb' 20 5 ∧ d.shamt = inst.extractLsb' 20 5
      ∧ d.funct7 = inst.extractLsb' 25 7
      ∧ d.rs1 = s.reg d.rs1Addr ∧ d.rs2 = s.reg d.rs2Addr
      ∧ d.csrAddress = inst.extractLsb' 20 12
      ∧ d.csrSource = (if d.funct3.getLsbD 2 then d.rs1Addr.setWidth 32 else d.rs1)
      ∧ (d.csrShouldWrite = false ↔ d.funct3.getLsbD 1 = true ∧ d.rs1Addr = 0)
      ∧ (d.csrShouldRead = false ↔ d.funct3.extractLsb' 0 2 = 0b01#2 ∧ d.rd = 0)

/-- O44. R222: with no exception the signals of the word's class alone, two of them for JAL and one otherwise; with one, none. The opcode values are
those of 30_encoding.md R142, which the spec marks "[from general knowledge, not in source]". -/
def Obligations.DecodeSlotSignals : Prop :=
  ∀ s : State, s.inSlot .D →
    ∃ t : State, cycle s = .next t
      ∧ (t.deBank.trap = true → t.deBank.signals = List.replicate 9 false)
      ∧ (t.deBank.trap = false →
          let op := t.deBank.opcode
          t.deBank.signals =
            [op == 0b0110011#7 || op == 0b0010011#7, op == 0b0100011#7, op == 0b0000011#7, op == 0b0110111#7, op == 0b0010111#7,
              op == 0b1100011#7, op == 0b1101111#7, op == 0b1101111#7 || op == 0b1100111#7, op == 0b1110011#7]
          ∧ t.deBank.signals.count true = if op = 0b1101111#7 then 2 else 1)

/-- O45. R225, R226 (decisions D7, D8, D12, D16, D18): the three exceptions of Decode in their order, and MRET. -/
def Obligations.DecodeSlotExceptions : Prop :=
  ∀ s : State, s.inSlot .D →
    let pc := s.ifBank.pc
    let inst := s.ifBank.instruction
    ∃ t : State, cycle s = .next t
      ∧ (pc.toNat % 4 ≠ 0 → t.deBank.trap = true ∧ t.deBank.context = ⟨s.ifBank.pcPlus4, 0, pc⟩)
      ∧ (pc.toNat % 4 = 0 → mapped pc = false → t.deBank.trap = true ∧ t.deBank.context = ⟨s.ifBank.pcPlus4, 1, pc⟩)
      ∧ (pc.toNat % 4 = 0 → mapped pc = true → legal inst = false →
          t.deBank.trap = true ∧ t.deBank.context = ⟨s.ifBank.pcPlus4, 2, inst⟩)
      ∧ (pc.toNat % 4 = 0 → mapped pc = true → legal inst = true → t.deBank.trap = false ∧ t.deBank.context = ⟨0, 0, 0⟩)
      ∧ (t.deBank.mret = true ↔ t.deBank.trap = false ∧ inst = 0x30200073#32)

/-- O46. R231 to R235, with the operands of R230 (decision D36). The `funct3` values are marked by the spec "[from general knowledge, not in
source]". -/
def Obligations.ExecuteSlot : Prop :=
  ∀ s : State, s.inSlot .E →
    let d := s.deBank
    let reg := d.opcode.getLsbD 5
    let alt := d.instruction.getLsbD 30
    let b := if reg then d.rs2 else d.imm32
    let n := if reg then d.rs2.toNat % 32 else d.shamt.toNat
    ∃ x : ExecuteBank, cycle s = .next { s.addCycles 1 with exBank := x, orch := ⟨.pipeline, .M⟩ }
      ∧ (d.funct3 = 0 → x.aluResult = if reg && alt then d.rs1 - d.rs2 else d.rs1 + b)
      ∧ (d.funct3 = 1 → x.aluResult = d.rs1 <<< n)
      ∧ (d.funct3 = 2 → x.aluResult = if d.rs1.slt b then 1 else 0)
      ∧ (d.funct3 = 3 → x.aluResult = if d.rs1.ult b then 1 else 0)
      ∧ (d.funct3 = 4 → x.aluResult = d.rs1 ^^^ b)
      ∧ (d.funct3 = 5 → x.aluResult = if alt then d.rs1.sshiftRight n else d.rs1 >>> n)
      ∧ (d.funct3 = 6 → x.aluResult = d.rs1 ||| b)
      ∧ (d.funct3 = 7 → x.aluResult = d.rs1 &&& b)
      ∧ x.branchAddress = (if d.isJump && !d.isJAL then d.rs1 + d.imm32 else d.pc + d.imm32)
      ∧ (x.branchValid = true ↔ d.isJump = true ∨ (d.isBranch = true ∧
          ((d.funct3 = 0 ∧ d.rs1 = d.rs2) ∨ (d.funct3 = 1 ∧ d.rs1 ≠ d.rs2) ∨ (d.funct3 = 4 ∧ d.rs1.slt d.rs2 = true)
            ∨ (d.funct3 = 5 ∧ d.rs1.slt d.rs2 = false) ∨ (d.funct3 = 6 ∧ d.rs1.ult d.rs2 = true)
            ∨ (d.funct3 = 7 ∧ d.rs1.ult d.rs2 = false))))
      ∧ x.rd = d.rd ∧ x.rs1 = d.rs1 ∧ x.rs2 = d.rs2 ∧ x.imm32 = d.imm32 ∧ x.funct3 = d.funct3 ∧ x.pc = d.pc ∧ x.pcPlus4 = d.pcPlus4
      ∧ x.instruction = d.instruction ∧ x.isAluOperation = d.isAluOperation ∧ x.isStore = d.isStore ∧ x.isLoad = d.isLoad
      ∧ x.isLUI = d.isLUI ∧ x.isAUIPC = d.isAUIPC ∧ x.isJump = d.isJump ∧ x.isSystem = d.isSystem ∧ x.csrAddress = d.csrAddress
      ∧ x.csrSource = d.csrSource ∧ x.csrShouldWrite = d.csrShouldWrite ∧ x.csrShouldRead = d.csrShouldRead

/-- O47. R244, R245, R247 and R249: the write-back value of each class, its validity, and what passes through in every case. -/
def Obligations.MemorySlotValues : Prop :=
  ∀ s : State, s.inSlot .M →
    let x := s.exBank
    let a := x.imm32 + x.rs1
    ∃ t, cycle s = .next t
      ∧ t.memBank.rd = x.rd ∧ t.memBank.pc = x.pc
      ∧ (t.memBank.trap = false →
          let v := t.memBank.writebackValue
          t.memBank.writebackValueValid =
              (x.isLoad || x.isAluOperation || x.isLUI || x.isJump || x.isSystem || x.isAUIPC)
          ∧ (x.signals = [false, false, true, false, false, false, false] →
              (x.funct3 = 0 → v = ((busRead s.cfg s.mem .byte a).setWidth 8).signExtend 32)
              ∧ (x.funct3 = 1 → v = ((busRead s.cfg s.mem .half a).setWidth 16).signExtend 32)
              ∧ (x.funct3 = 2 → v = busRead s.cfg s.mem .word a)
              ∧ (x.funct3 = 4 → v = ((busRead s.cfg s.mem .byte a).setWidth 8).setWidth 32)
              ∧ (x.funct3 = 5 → v = ((busRead s.cfg s.mem .half a).setWidth 16).setWidth 32))
          ∧ (x.signals = [false, false, false, true, false, false, false] → v = x.imm32)
          ∧ (x.signals = [false, false, false, false, false, true, false] → v = x.pcPlus4)
          ∧ (x.signals = [false, false, false, false, true, false, false] → v = x.branchAddress)
          ∧ (x.signals = [true, false, false, false, false, false, false] → v = x.aluResult)
          ∧ (x.signals = List.replicate 7 false → v = 0))

/-- O48. R362: what a CSR instruction reads in its M cycle, at each of the nineteen addresses: the committed value, before the counter's increment of
that same cycle; and reading changes nothing. -/
def Obligations.CsrReadTable : Prop :=
  ∀ s : State, s.inSlot .M → s.exBank.signals = [false, false, false, false, false, false, true] →
    s.exBank.csrShouldRead = true → csrAccessOk s.exBank.csrAddress s.exBank.csrShouldWrite = true →
      let a := s.exBank.csrAddress
      ∃ t, cycle s = .next t
        ∧ (s.exBank.csrShouldWrite = false → t = { s.addCycles 1 with memBank := t.memBank, orch := ⟨.pipeline, .W⟩ })
        ∧ t.memBank.trap = false ∧ t.memBank.writebackValueValid = true
        ∧ let v := t.memBank.writebackValue
          (a = 0xC00#12 ∨ a = 0xC01#12 → v = s.csr.cycles.extractLsb' 0 32)
          ∧ (a = 0xC02#12 → v = s.csr.instret.extractLsb' 0 32)
          ∧ (a = 0xC80#12 ∨ a = 0xC81#12 → v = s.csr.cycles.extractLsb' 32 32)
          ∧ (a = 0xC82#12 → v = s.csr.instret.extractLsb' 32 32)
          ∧ (a = 0x300#12 → v = s.csr.mstatus) ∧ (a = 0x301#12 → v = s.csr.misa) ∧ (a = 0x304#12 → v = s.csr.mie)
          ∧ (a = 0x305#12 → v = s.csr.mtvec) ∧ (a = 0x340#12 → v = s.csr.mscratch) ∧ (a = 0x341#12 → v = s.csr.mepc)
          ∧ (a = 0x342#12 → v = s.csr.mcause) ∧ (a = 0x343#12 → v = s.csr.mtval) ∧ (a = 0x344#12 → v = s.csr.mip)
          ∧ (a = 0xF11#12 ∨ a = 0xF12#12 ∨ a = 0xF13#12 ∨ a = 0xF14#12 → v = 0)

/-- O49. R246: the value read, and the value written in each of the three forms; and that the word of a CSR instruction has one of these forms, the
set and clear ones always reading. -/
def Obligations.CsrAccessSlot : Prop :=
  (∀ s : State, s.inSlot .M → s.exBank.signals = [false, false, false, false, false, false, true] →
    csrAccessOk s.exBank.csrAddress s.exBank.csrShouldWrite = true →
      let x := s.exBank
      let form := x.funct3.extractLsb' 0 2
      let old := if x.csrShouldRead then csrRead s.csr x.csrAddress else 0
      let ticked := { s.csr with cycles := s.csr.cycles + 1 }
      let written := fun v => csrWrite s.cfg.mstatusMask ticked x.csrAddress v
      ∃ t, cycle s = .next t ∧ t.memBank.trap = false ∧ t.memBank.writebackValue = old ∧ t.mem = s.mem
        ∧ (x.csrShouldWrite = false → t.csr = ticked)
        ∧ (x.csrShouldWrite = true → form = 1 → t.csr = written x.csrSource)
        ∧ (x.csrShouldWrite = true → form = 2 → t.csr = written (old ||| x.csrSource))
        ∧ (x.csrShouldWrite = true → form = 3 → t.csr = written (old &&& ~~~x.csrSource)))
  ∧ ∀ (f : FetchBank) (regs : RegFile), legal f.instruction = true → (decodeLatch f regs).isSystem = true → (decodeLatch f regs).mret = false →
      let form := (decodeLatch f regs).funct3.extractLsb' 0 2
      (form = 1 ∨ form = 2 ∨ form = 3) ∧ (form ≠ 1 → (decodeLatch f regs).csrShouldRead = true)

/-- O50. 60_exceptions.md R405, for a load of any legal width: exactly when LoadAddressMisaligned is raised, and its context. -/
def Obligations.LoadAddressMisalignedRaised : Prop :=
  ∀ s : State, s.inSlot .M → s.exBank.signals = [false, false, true, false, false, false, false] →
    let x := s.exBank
    let ea := x.imm32 + x.rs1
    (x.funct3 = 0 ∨ x.funct3 = 1 ∨ x.funct3 = 2 ∨ x.funct3 = 4 ∨ x.funct3 = 5) →
      ∃ t, cycle s = .next t ∧ t.mem = s.mem
        ∧ ((t.memBank.trap = true ∧ t.memBank.mcause = 4) ↔
            (((x.funct3 = 1 ∨ x.funct3 = 5) ∧ ea.getLsbD 0 = true) ∨ (x.funct3 = 2 ∧ ea.extractLsb' 0 2 ≠ 0)))
        ∧ (t.memBank.trap = true ∧ t.memBank.mcause = 4 →
            t.memBank.mepc = x.pcPlus4 ∧ t.memBank.mtval = x.instruction ∧ t.memBank.writebackValueValid = false)

/-- O51. R250 (decision D30): the register file after a WriteBack slot, `x0` guarded; and nothing else but the two counters. -/
def Obligations.WriteBackSlot : Prop :=
  ∀ s : State, s.inSlot .W →
    ∃ regs : RegFile, cycle s = .next { s.addCycles 1 with
        regs := regs
        csr := { s.csr with cycles := s.csr.cycles + 1, instret := s.csr.instret + 1 }
        orch := ⟨.pipeline, .F⟩ }
      ∧ ∀ r : RegIdx, RegFile.read regs r =
          if s.memBank.writebackValueValid = true ∧ r = s.memBank.rd ∧ r ≠ 0 then s.memBank.writebackValue else s.reg r

/-- O52. 40_pipeline.md R251 with R208, 10_state.md R34, R35 (decisions D28, D38): `instret` counts each evaluated WriteBack slot and nothing else, and
`cycles` counts every cycle of either mode. -/
def Obligations.CountersCount : Prop :=
  ∀ s t : State, cycle s = .next t →
    (s.inSlot .W → t.csr.instret = s.csr.instret + 1) ∧ (¬ s.inSlot .W → t.csr.instret = s.csr.instret)
    ∧ t.csr.cycles = s.csr.cycles + 1

/-- O53. R198, R204 (decision D4), R213 (decision D6): a stage's bank changes in its own slot alone, but for the flush of an accept cycle and
Fetch's program counter in `SetProgramCounter`. -/
def Obligations.OneStagePerCycle : Prop :=
  ∀ s t : State, cycle s = .next t → (s.orch.mode = .pipeline → s.quiet) →
    (¬ s.inSlot .F → ¬ (s.orch.mode = .trap ∧ s.trBank.state = .setProgramCounter) → t.ifBank = s.ifBank)
    ∧ (¬ s.inSlot .D → t.deBank = s.deBank)
    ∧ (¬ s.inSlot .E → t.exBank = s.exBank)
    ∧ (¬ s.inSlot .M → t.memBank = s.memBank ∧ t.mem = s.mem)
    ∧ (¬ s.inSlot .W → t.regs = s.regs)

/-! ## The Trap Controller (60_exceptions.md) -/

/-- O54. 40_pipeline.md R200, R202 to R204 (decisions D3, D4, D37): the accept cycle of an exception, MemoryAccess's before Decode's, and, with neither
pending, of an MRET, which keeps the latch; and the flush, the same in both. -/
def Obligations.ExceptionAccepted : Prop :=
  ∀ s : State, s.orch.mode = .pipeline →
    let accepted := fun latch : TrapBank =>
      { s.addCycles 1 with
        ifBank := ⟨0x10000000#32, 0x10000000#32, 0x10000000#32⟩
        deBank := DecodeBank.default
        exBank := ExecuteBank.default
        memBank := MemoryBank.default
        trBank := latch
        orch := ⟨.trap, .F⟩ }
    (s.memBank.trap = true ∨ s.deBank.trap = true →
      let ctx := if s.memBank.trap then s.memBank.context else s.deBank.context
      cycle s = .next (accepted { s.trBank with
        state := .setCsrAndComputeVector, mepc := ctx.mepc, mcause := ctx.mcause, mtval := ctx.mtval }))
    ∧ (s.memBank.trap = false → s.deBank.trap = false → s.deBank.mret = true →
      cycle s = .next (accepted { s.trBank with state := .returnFromTrap }))

/-- O55. R416: what the latch takes and when, that it keeps its values otherwise, an accepted MRET included, and that `SetCsrAndComputeVector`
reads it. -/
def Obligations.LatchKeepsItsContext : Prop :=
  ∀ s t : State, cycle s = .next t →
    (s.orch.mode = .pipeline → s.memBank.trap = true → t.trBank.latch = s.memBank.context)
    ∧ (s.orch.mode = .pipeline → s.memBank.trap = false → s.deBank.trap = true → t.trBank.latch = s.deBank.context)
    ∧ (s.orch.mode = .trap ∨ (s.memBank.trap = false ∧ s.deBank.trap = false) → t.trBank.latch = s.trBank.latch)
    ∧ (s.orch.mode = .trap → s.trBank.state = .setCsrAndComputeVector →
        TrapContext.mk t.csr.mepc t.csr.mcause t.csr.mtval = s.trBank.latch)

/-- O56. R420, R421 (decisions D5, D33): `SetCsrAndComputeVector` with a readable table entry, and with an unmapped one, where the spec's FATAL (R428,
decision D29) is the model's fault `fatalVectorRead` (DESIGN CHOICE, log 2). -/
def Obligations.VectorIsLoaded : Prop :=
  ∀ s : State, s.orch.mode = .trap → s.trBank.state = .setCsrAndComputeVector →
    let vector := (s.csr.mtvec &&& 0xFFFFFFFC#32) + (if s.trBank.mcause.getLsbD 31 then 0 else 48) + 4 * s.trBank.mcause
    vector.toNat % 4 = 0
    ∧ (mapped vector = true → cycle s = .next { s.addCycles 1 with
        csr := trappedCsr s.csr 1 s.trBank.mepc s.trBank.mcause s.trBank.mtval
        trBank := { s.trBank with pcToSet := busRead s.cfg s.mem .word vector, state := .setProgramCounter } })
    ∧ (mapped vector = false → cycle s = .fault .fatalVectorRead)

/-- O57. R423 (decisions D5, D6), 40_pipeline.md R213: the pending program counter is given to Fetch and the machine is back in pipeline mode; after
a flush the next fetch is there. -/
def Obligations.ProgramCounterIsSet : Prop :=
  ∀ s : State, s.orch.mode = .trap → s.trBank.state = .setProgramCounter →
    ∃ t, cycle s = .next t
      ∧ t = { s.addCycles 1 with
          ifBank := { s.ifBank with pc := s.trBank.pcToSet, pcPlus4 := s.trBank.pcToSet }
          trBank := { s.trBank with state := .idle }
          orch := { s.orch with mode := .pipeline } }
      ∧ (s.Inv → t.atFetch = true ∧ t.fetchAddress = s.trBank.pcToSet)

/-- O58. R424. -/
def Obligations.ReturnFromTrapState : Prop :=
  ∀ s : State, s.orch.mode = .trap → s.trBank.state = .returnFromTrap →
    cycle s = .next { s with
      csr := { s.csr with cycles := s.csr.cycles + 1 }
      trBank := { s.trBank with pcToSet := s.csr.mepc, state := .setProgramCounter } }

/-! ## Across the whole machine -/

/-- O59. 60_exceptions.md R441 (marked "[derived: …]"), 10_state.md R40, R45, R46, R48, R52: `mstatus`, `misa`, `mie`, `mip` and `mscratch` are
storage only. Outside the M cycle of a CSR instruction, two machines that differ in them alone still differ in them alone a cycle later;
so do they after any instruction but the six CSR ones. -/
def Obligations.InertCsrsHaveNoEffect : Prop :=
  ∀ (s : State) (a b c d e : Word),
    (¬ (s.inSlot .M ∧ s.exBank.isSystem = true) →
      cycle (s.withInert a b c d e) = mapNext (fun t => t.withInert a b c d e) (cycle s))
    ∧ ∀ i : Instr, ¬ (opcodeOf (encode i) = 0b1110011#7 ∧ funct3Of (encode i) ≠ 0) →
        exec i (s.withInert a b c d e) = mapNext (fun t => t.withInert a b c d e) (exec i s)

/-- O60. The host's way in (DESIGN CHOICE, log 9): the word of a well-formed instruction placed by `withFetchWord` is what the next step fetches and runs, from any
state a run reaches. -/
def Obligations.PlacedWordRuns : Prop :=
  ∀ (s : State) (i : Instr), s.Inv → i.wf = true →
    step (s.withFetchWord 32 (encode i).toNat) = exec i (s.withFetchWord 32 (encode i).toNat)

end
end

