-- ==== Sys2Proof/Laws/Memory.lean ====
section
/-!
SUPPORT. Laws of storage: a read after a write, the canonical form kept by every operation, equal contents are equal lists.
-/
namespace Sys2Proof.Machine

open Sys2Proof

theorem Memory.wfFrom_mono {m : Memory} {lo hi : Nat} (h : lo ≤ hi) (hm : m.wfFrom hi = true) : m.wfFrom lo = true := by
  cases m with
  | nil => rfl
  | cons c rest =>
    simp only [Memory.wfFrom, Bool.and_eq_true, decide_eq_true_eq] at hm ⊢
    exact ⟨⟨by omega, hm.1.2⟩, hm.2⟩

/-- Below its bound a canonical memory lists nothing. -/
theorem Memory.read_of_lt {m : Memory} {lo a : Nat} (hm : m.wfFrom lo = true) (h : a < lo) : m.read a = Memory.unlisted a := by
  induction m generalizing lo with
  | nil => rfl
  | cons c rest ih =>
    simp only [Memory.wfFrom, Bool.and_eq_true, decide_eq_true_eq] at hm
    rw [Memory.read, if_neg (by omega)]
    exact ih hm.2 (by omega)

theorem Memory.read_cell_same (a : Nat) (b : Byte) {rest : Memory} (h : rest.read a = Memory.unlisted a) :
    (Memory.cell a b rest).read a = b := by
  unfold Memory.cell
  split
  · rename_i hb; rw [h, hb]
  · simp [Memory.read]

theorem Memory.read_cell_of_ne {a k : Nat} (b : Byte) (rest : Memory) (h : k ≠ a) :
    (Memory.cell a b rest).read k = rest.read k := by
  unfold Memory.cell
  split
  · rfl
  · simp [Memory.read, Ne.symm h]

/-- A write leaves every other address alone. -/
theorem Memory.read_write_of_ne (m : Memory) {a k : Nat} (b : Byte) (h : k ≠ a) : (m.write a b).read k = m.read k := by
  induction m with
  | nil => simp [Memory.write, Memory.read_cell_of_ne b [] h]
  | cons c rest ih =>
    simp only [Memory.write]
    split
    · exact Memory.read_cell_of_ne b _ h
    · split
      · rename_i hk
        rw [Memory.read_cell_of_ne b _ h, Memory.read, if_neg (by omega)]
      · simp only [Memory.read, ih]

theorem Memory.read_write_same_from {m : Memory} {lo : Nat} (a : Nat) (b : Byte) (hm : m.wfFrom lo = true) :
    (m.write a b).read a = b := by
  induction m generalizing lo with
  | nil => exact Memory.read_cell_same a b rfl
  | cons c rest ih =>
    simp only [Memory.wfFrom, Bool.and_eq_true, decide_eq_true_eq] at hm
    simp only [Memory.write]
    split
    · refine Memory.read_cell_same a b ?_
      rw [Memory.read, if_neg (by omega)]
      exact Memory.read_of_lt hm.2 (by omega)
    · split
      · rename_i hk
        exact Memory.read_cell_same a b (Memory.read_of_lt hm.2 (by omega))
      · rename_i hk
        rw [Memory.read, if_neg (by omega)]
        exact ih hm.2

/-- A read after a write to the same address gives the value written. -/
theorem Memory.read_write_same {m : Memory} (a : Nat) (b : Byte) (hm : m.wf = true) : (m.write a b).read a = b :=
  Memory.read_write_same_from a b hm

theorem Memory.wfFrom_cell {lo a : Nat} (b : Byte) {rest : Memory} (h : lo ≤ a) (hr : rest.wfFrom (a + 1) = true) :
    (Memory.cell a b rest).wfFrom lo = true := by
  unfold Memory.cell
  split
  · exact Memory.wfFrom_mono (by omega) hr
  · rename_i hb
    simp [Memory.wfFrom, h, hb, hr]

theorem Memory.wfFrom_write {m : Memory} {lo a : Nat} (b : Byte) (h : lo ≤ a) (hm : m.wfFrom lo = true) :
    (m.write a b).wfFrom lo = true := by
  induction m generalizing lo with
  | nil => exact Memory.wfFrom_cell b h rfl
  | cons c rest ih =>
    have hm' := hm
    simp only [Memory.wfFrom, Bool.and_eq_true, decide_eq_true_eq] at hm
    simp only [Memory.write]
    split
    · refine Memory.wfFrom_cell b h ?_
      simp only [Memory.wfFrom, Bool.and_eq_true, decide_eq_true_eq]
      exact ⟨⟨by omega, hm.1.2⟩, hm.2⟩
    · split
      · rename_i hk
        exact Memory.wfFrom_cell b h (by rw [hk]; exact hm.2)
      · simp only [Memory.wfFrom, Bool.and_eq_true, decide_eq_true_eq]
        exact ⟨hm.1, ih (by omega) hm.2⟩

/-- A write keeps the canonical form. -/
theorem Memory.wf_write {m : Memory} (a : Nat) (b : Byte) (hm : m.wf = true) : (m.write a b).wf = true :=
  Memory.wfFrom_write b (Nat.zero_le a) hm

theorem Memory.wf_writeWord {m : Memory} (a : Nat) (w : Word) (hm : m.wf = true) : (m.writeWord a w).wf = true :=
  Memory.wf_write _ _ (Memory.wf_write _ _ (Memory.wf_write _ _ (Memory.wf_write _ _ hm)))

/-- A word write leaves every byte outside its four alone. -/
theorem Memory.read_writeWord_of_outside (m : Memory) {a k : Nat} (w : Word) (h : k < a ∨ a + 4 ≤ k) :
    (m.writeWord a w).read k = m.read k := by
  unfold Memory.writeWord
  rw [Memory.read_write_of_ne _ _ (by omega), Memory.read_write_of_ne _ _ (by omega), Memory.read_write_of_ne _ _ (by omega),
    Memory.read_write_of_ne _ _ (by omega)]

/-- After a word write, byte `k` of the word is lane `k`. -/
theorem Memory.read_writeWord_lane {m : Memory} (a : Nat) (w : Word) {k : Nat} (hk : k < 4) (hm : m.wf = true) :
    (m.writeWord a w).read (a + k) = laneOf w k := by
  have h1 := Memory.wf_write a (laneOf w 0) hm
  have h2 := Memory.wf_write (a + 1) (laneOf w 1) h1
  have h3 := Memory.wf_write (a + 2) (laneOf w 2) h2
  unfold Memory.writeWord
  obtain rfl | rfl | rfl | rfl : k = 0 ∨ k = 1 ∨ k = 2 ∨ k = 3 := by omega
  · rw [Memory.read_write_of_ne _ _ (by omega), Memory.read_write_of_ne _ _ (by omega), Memory.read_write_of_ne _ _ (by omega)]
    exact Memory.read_write_same _ _ hm
  · rw [Memory.read_write_of_ne _ _ (by omega), Memory.read_write_of_ne _ _ (by omega)]
    exact Memory.read_write_same _ _ h1
  · rw [Memory.read_write_of_ne _ _ (by omega)]
    exact Memory.read_write_same _ _ h2
  · exact Memory.read_write_same _ _ h3

/-- A word is its four lanes, lane 0 first. -/
theorem wordOfLanes_laneOf (w : Word) : wordOfLanes (laneOf w 0) (laneOf w 1) (laneOf w 2) (laneOf w 3) = w := by
  apply BitVec.eq_of_getLsbD_eq
  intro i hi
  simp only [wordOfLanes, laneOf, BitVec.getLsbD_append, BitVec.getLsbD_extractLsb']
  by_cases h1 : i < 8
  · simp [h1]
  · by_cases h2 : i - 8 < 8
    · simp [h1, h2, show 8 + (i - 8) = i by omega]
    · by_cases h3 : i - 8 - 8 < 8
      · simp [h1, h2, h3, show 16 + (i - 8 - 8) = i by omega]
      · simp [h1, h2, h3, show 24 + (i - 8 - 8 - 8) = i by omega, show i - 8 - 8 - 8 < 8 by omega]

theorem laneOf_wordOfLanes (b0 b1 b2 b3 : Byte) :
    laneOf (wordOfLanes b0 b1 b2 b3) 0 = b0 ∧ laneOf (wordOfLanes b0 b1 b2 b3) 1 = b1 ∧
    laneOf (wordOfLanes b0 b1 b2 b3) 2 = b2 ∧ laneOf (wordOfLanes b0 b1 b2 b3) 3 = b3 := by
  refine ⟨?_, ?_, ?_, ?_⟩ <;>
  · apply BitVec.eq_of_getLsbD_eq
    intro i hi
    simp only [wordOfLanes, laneOf, BitVec.getLsbD_append, BitVec.getLsbD_extractLsb']
    interval_cases i <;> simp

/-- A word written is the word read. -/
theorem Memory.readWord_writeWord_same {m : Memory} (a : Nat) (w : Word) (hm : m.wf = true) : (m.writeWord a w).readWord a = w := by
  unfold Memory.readWord
  have h := fun k (hk : k < 4) => Memory.read_writeWord_lane a w hk hm
  rw [show (m.writeWord a w).read a = laneOf w 0 from h 0 (by omega), h 1 (by omega), h 2 (by omega), h 3 (by omega)]
  exact wordOfLanes_laneOf w

/-- A word apart from the written one reads as before. -/
theorem Memory.readWord_writeWord_of_disjoint (m : Memory) {a k : Nat} (w : Word) (h : k + 4 ≤ a ∨ a + 4 ≤ k) :
    (m.writeWord a w).readWord k = m.readWord k := by
  unfold Memory.readWord
  rw [Memory.read_writeWord_of_outside _ _ (by omega), Memory.read_writeWord_of_outside _ _ (by omega),
    Memory.read_writeWord_of_outside _ _ (by omega), Memory.read_writeWord_of_outside _ _ (by omega)]

/-- The lanes of a word read are the bytes stored. -/
theorem Memory.laneOf_readWord (m : Memory) (a : Nat) {k : Nat} (hk : k < 4) : laneOf (m.readWord a) k = m.read (a + k) := by
  have h := laneOf_wordOfLanes (m.read a) (m.read (a + 1)) (m.read (a + 2)) (m.read (a + 3))
  unfold Memory.readWord
  obtain rfl | rfl | rfl | rfl : k = 0 ∨ k = 1 ∨ k = 2 ∨ k = 3 := by omega
  · exact h.1
  · exact h.2.1
  · exact h.2.2.1
  · exact h.2.2.2

theorem Memory.eq_of_read_from {m n : Memory} {lo : Nat} (hm : m.wfFrom lo = true) (hn : n.wfFrom lo = true)
    (h : ∀ a, m.read a = n.read a) : m = n := by
  induction m generalizing n lo with
  | nil =>
    cases n with
    | nil => rfl
    | cons d rest =>
      simp only [Memory.wfFrom, Bool.and_eq_true, decide_eq_true_eq, bne_iff_ne] at hn
      have := h d.1
      simp only [Memory.read, if_true] at this
      exact absurd this.symm hn.1.2
  | cons c rest ih =>
    simp only [Memory.wfFrom, Bool.and_eq_true, decide_eq_true_eq, bne_iff_ne] at hm
    cases n with
    | nil =>
      have := h c.1
      simp only [Memory.read, if_true] at this
      exact absurd this hm.1.2
    | cons d rest' =>
      simp only [Memory.wfFrom, Bool.and_eq_true, decide_eq_true_eq, bne_iff_ne] at hn
      have hkey : c.1 = d.1 := by
        by_contra hne
        obtain hlt | hgt : c.1 < d.1 ∨ d.1 < c.1 := by omega
        · have h1 := h c.1
          simp only [Memory.read, if_true, if_neg (by omega : ¬ d.1 = c.1)] at h1
          rw [Memory.read_of_lt hn.2 (by omega)] at h1
          exact hm.1.2 h1
        · have h1 := h d.1
          simp only [Memory.read, if_true, if_neg (by omega : ¬ c.1 = d.1)] at h1
          rw [Memory.read_of_lt hm.2 (by omega)] at h1
          exact hn.1.2 h1.symm
      have hval : c.2 = d.2 := by
        have h1 := h c.1
        simp only [Memory.read, if_true, if_pos hkey.symm] at h1
        exact h1
      have hrest : rest = rest' := by
        refine ih hm.2 (by rw [hkey]; exact hn.2) (fun a => ?_)
        by_cases ha : c.1 = a
        · rw [Memory.read_of_lt hm.2 (by omega), Memory.read_of_lt hn.2 (by omega)]
        · have h1 := h a
          simp only [Memory.read, if_neg ha, if_neg (by omega : ¬ d.1 = a)] at h1
          exact h1
      rw [hrest, Prod.ext hkey hval]

/-- Canonical memories with equal contents are equal. -/
theorem Memory.eq_of_read {m n : Memory} (hm : m.wf = true) (hn : n.wf = true) (h : ∀ a, m.read a = n.read a) : m = n :=
  Memory.eq_of_read_from hm hn h

theorem Memory.within_cell {c : Config} {a : Nat} (b : Byte) {rest : Memory} (ha : existsAt c a = true)
    (hr : rest.within c = true) : (Memory.cell a b rest).within c = true := by
  unfold Memory.cell
  split
  · exact hr
  · simp only [Memory.within, List.all_cons, Bool.and_eq_true] at hr ⊢
    exact ⟨ha, hr⟩

theorem Memory.within_write {c : Config} {m : Memory} {a : Nat} (b : Byte) (ha : existsAt c a = true)
    (hm : m.within c = true) : (m.write a b).within c = true := by
  induction m with
  | nil => exact Memory.within_cell b ha rfl
  | cons d rest ih =>
    have hd : existsAt c d.1 = true ∧ Memory.within c rest = true := by
      simpa [Memory.within] using hm
    simp only [Memory.write]
    split
    · exact Memory.within_cell b ha hm
    · split
      · exact Memory.within_cell b ha hd.2
      · have := ih hd.2
        simp only [Memory.within, List.all_cons, Bool.and_eq_true] at this ⊢
        exact ⟨hd.1, this⟩

/-- A word write at bytes that exist lists no byte that does not. -/
theorem Memory.within_writeWord {c : Config} {m : Memory} {a : Nat} (w : Word) (h : ∀ k, k < 4 → existsAt c (a + k) = true)
    (hm : m.within c = true) : (m.writeWord a w).within c = true :=
  Memory.within_write _ (h 3 (by omega)) (Memory.within_write _ (h 2 (by omega)) (Memory.within_write _ (h 1 (by omega))
    (Memory.within_write _ (h 0 (by omega)) hm)))

end Sys2Proof.Machine
end

