-- ==== Sys2Proof/Laws/Boot.lean ====
section
/-!
SUPPORT. The loader's memory operation (20_memory.md R86): it keeps the canonical form and the device bounds, it changes no byte outside the image,
and it puts word `i` at offset `4 i`.
-/
namespace Sys2Proof.Machine

open Sys2Proof

theorem loadWords_wf {m : Memory} (a : Nat) (ws : List Word) (hm : m.wf = true) : (loadWords m a ws).wf = true := by
  induction ws generalizing m a with
  | nil => exact hm
  | cons w ws ih => exact ih (a + 4) (Memory.wf_writeWord a w hm)

theorem loadWords_within {c : Config} {m : Memory} {a : Nat} {ws : List Word}
    (h : ∀ k, a ≤ k → k < a + 4 * ws.length → existsAt c k = true) (hm : m.within c = true) : (loadWords m a ws).within c = true := by
  induction ws generalizing m a with
  | nil => exact hm
  | cons w ws ih =>
    simp only [List.length_cons] at h
    exact ih (fun k h1 h2 => h k (by omega) (by omega)) (Memory.within_writeWord w (fun k hk => h _ (by omega) (by omega)) hm)

theorem loadWords_read_of_outside (m : Memory) {a k : Nat} {ws : List Word} (h : k < a ∨ a + 4 * ws.length ≤ k) :
    (loadWords m a ws).read k = m.read k := by
  induction ws generalizing m a with
  | nil => rfl
  | cons w ws ih =>
    simp only [List.length_cons] at h
    exact (ih (m.writeWord a w) (by omega)).trans (Memory.read_writeWord_of_outside m w (by omega))

theorem loadWords_readWord {m : Memory} {a i : Nat} {ws : List Word} {w : Word} (hm : m.wf = true) (h : ws[i]? = some w) :
    (loadWords m a ws).readWord (a + 4 * i) = w := by
  induction ws generalizing m a i with
  | nil => simp at h
  | cons x ws ih =>
    cases i with
    | zero =>
      obtain rfl : x = w := by simpa using h
      have out : ∀ k, k < 4 → (loadWords m a (x :: ws)).read (a + k) = (m.writeWord a x).read (a + k) :=
        fun k hk => loadWords_read_of_outside (m.writeWord a x) (a := a + 4) (ws := ws) (by omega)
      refine Eq.trans ?_ (Memory.readWord_writeWord_same a x hm)
      have out0 := out 0 (by omega)
      simp only [Nat.add_zero] at out0
      simp only [Memory.readWord, Nat.mul_zero, Nat.add_zero, out0, out 1 (by omega), out 2 (by omega), out 3 (by omega)]
    | succ n =>
      have := ih (a := a + 4) (Memory.wf_writeWord a x hm) (by simpa using h)
      rw [← this, show a + 4 * (n + 1) = a + 4 + 4 * n by omega]
      rfl

/-- Where a first state exists, and which it is (70_reset_and_hazards.md R464). -/
theorem boot_of_ok {p : BootParams} {s : State} (h : boot p = .ok s) :
    p.cfg.wf = true ∧ 4 * p.romImage.length ≤ p.cfg.romSize ∧ 4 * p.ramInit.length ≤ p.cfg.ramSize
    ∧ s = { State.reset with
        cfg := p.cfg
        csr := bootCsr p.cfg.mstatusMask p.csrBoot
        mem := loadWords (loadWords [] romBase p.romImage) ramBase p.ramInit } := by
  unfold boot at h
  split at h
  · cases h
  · split at h
    · cases h
    · split at h
      · cases h
      · injection h with h
        exact ⟨by simp_all, by omega, by omega, h.symm⟩

end Sys2Proof.Machine
end

