-- ==== Sys2Proof/Laws/Bus.lean ====
section
/-!
SUPPORT. Laws of the bus: address decoding, home addresses, lanes, what a write stores and what it leaves.
-/
namespace Sys2Proof.Machine

open Sys2Proof

/-! ## Address decoding -/

theorem topNibble (a : Word) : (a.extractLsb' 28 4).toNat = a.toNat / windowSize := by
  have := a.isLt
  rw [BitVec.extractLsb'_toNat, Nat.shiftRight_eq_div_pow, show windowSize = 2 ^ 28 by norm_num [windowSize]]
  exact Nat.mod_eq_of_lt (by omega)

theorem region_rom_iff (a : Word) : region a = .rom ↔ a.toNat / windowSize = 1 := by
  rw [← topNibble, region]
  split
  · rename_i h; simp [h]
  · rename_i h
    split
    · rename_i h2; simp [h2]
    · simp only [reduceCtorEq, false_iff]
      exact fun e => h (BitVec.eq_of_toNat_eq (by simpa using e))

theorem region_ram_iff (a : Word) : region a = .ram ↔ a.toNat / windowSize = 2 := by
  rw [← topNibble, region]
  split
  · rename_i h; simp [h]
  · rename_i h
    split
    · rename_i h2; simp [h2]
    · rename_i h2
      simp only [reduceCtorEq, false_iff]
      exact fun e => h2 (BitVec.eq_of_toNat_eq (by simpa using e))

/-- A mapped address is in the ROM or the RAM window (20_memory.md R81). -/
theorem mapped_iff (a : Word) : mapped a = true ↔ region a = .rom ∨ region a = .ram := by
  unfold mapped
  cases region a <;> simp

theorem romSize_spec {c : Config} (h : c.wf = true) : c.romSize % 4 = 0 ∧ 0 < c.romSize ∧ c.romSize ≤ windowSize := by
  simp only [Config.wf, Bool.and_eq_true, decide_eq_true_eq] at h
  have h4 : 4 ∣ c.romSize := by
    rw [Config.romSize, show (4 : Nat) = 2 ^ 2 from rfl]; exact Nat.pow_dvd_pow 2 h.1.1.1
  have hle : c.romSize ≤ 2 ^ 28 := Nat.pow_le_pow_right (by omega) h.1.1.2
  have hpos : 0 < c.romSize := Nat.pos_of_ne_zero (by simp [Config.romSize])
  simp only [windowSize]
  omega

theorem ramSize_spec {c : Config} (h : c.wf = true) : c.ramSize % 4 = 0 ∧ 0 < c.ramSize ∧ c.ramSize ≤ windowSize := by
  simp only [Config.wf, Bool.and_eq_true, decide_eq_true_eq] at h
  have h4 : 4 ∣ c.ramSize := by
    rw [Config.ramSize, show (4 : Nat) = 2 ^ 2 from rfl]; exact Nat.pow_dvd_pow 2 h.1.2
  have hle : c.ramSize ≤ 2 ^ 28 := Nat.pow_le_pow_right (by omega) h.2
  have hpos : 0 < c.ramSize := Nat.pos_of_ne_zero (by simp [Config.ramSize])
  simp only [windowSize]
  omega

theorem deviceSize_spec {c : Config} (h : c.wf = true) (r : Region) :
    deviceSize c r % 4 = 0 ∧ 0 < deviceSize c r ∧ deviceSize c r ≤ windowSize := by
  cases r with
  | rom => rw [deviceSize]; exact romSize_spec h
  | ram => rw [deviceSize]; exact ramSize_spec h
  | unmapped => rw [deviceSize]; norm_num [windowSize]

theorem mod_mod_four {x n : Nat} (h : n % 4 = 0) : x % n % 4 = x % 4 :=
  Nat.mod_mod_of_dvd x (Nat.dvd_of_mod_eq_zero h)

/-- A byte's home is its word's home plus its lane (20_memory.md R82, R90). -/
theorem homeAddress_eq {c : Config} (h : c.wf = true) (a : Word) : homeAddress c a = homeWord c a + laneIndex a := by
  have h4 : homeAddress c a % 4 = a.toNat % 4 := by
    have hd := (deviceSize_spec h (region a)).1
    have hm := mod_mod_four (x := a.toNat % windowSize) hd
    unfold homeAddress
    simp only [windowSize] at *
    omega
  unfold homeWord laneIndex
  omega

theorem homeWord_dvd (c : Config) (a : Word) : homeWord c a % 4 = 0 := by
  unfold homeWord
  omega

/-- Where the word of a mapped address lies. -/
theorem homeWord_bounds {c : Config} (h : c.wf = true) (a : Word) :
    (region a = .rom → romBase ≤ homeWord c a ∧ homeWord c a + 4 ≤ romBase + c.romSize) ∧
    (region a = .ram → ramBase ≤ homeWord c a ∧ homeWord c a + 4 ≤ ramBase + c.ramSize) := by
  constructor
  · intro hr
    have hq := (region_rom_iff a).1 hr
    have hs := romSize_spec h
    have hlt := Nat.mod_lt (a.toNat % windowSize) hs.2.1
    simp only [homeWord, homeAddress, hr, deviceSize, hq, romBase, windowSize] at *
    omega
  · intro hr
    have hq := (region_ram_iff a).1 hr
    have hs := ramSize_spec h
    have hlt := Nat.mod_lt (a.toNat % windowSize) hs.2.1
    simp only [homeWord, homeAddress, hr, deviceSize, hq, ramBase, windowSize] at *
    omega

/-- The four bytes of a mapped word exist. -/
theorem existsAt_homeWord {c : Config} (h : c.wf = true) {a : Word} (hm : mapped a = true) {k : Nat} (hk : k < 4) :
    existsAt c (homeWord c a + k) = true := by
  have hb := homeWord_bounds h a
  rw [mapped_iff] at hm
  simp only [existsAt, Bool.or_eq_true, Bool.and_eq_true, decide_eq_true_eq]
  obtain hr | hr := hm
  · have := hb.1 hr; omega
  · have := hb.2 hr; omega

/-! ## Alignment -/

/-- An aligned access starts at a lane that is a multiple of its width (20_memory.md R100). -/
theorem laneIndex_of_aligned {w : Width} {a : Word} (h : misaligned w a = false) :
    laneIndex a % w.bytes = 0 ∧ laneIndex a + w.bytes ≤ 4 := by
  have hlt : laneIndex a < 4 := Nat.mod_lt _ (by omega)
  cases w
  · simp [Width.bytes]; omega
  · have h1 : (a.extractLsb' 0 1).toNat = 0 := by
      simp only [misaligned, bne_eq_false_iff_eq] at h
      rw [h]; rfl
    simp only [BitVec.extractLsb'_toNat, Nat.shiftRight_zero] at h1
    simp only [laneIndex, Width.bytes] at *
    omega
  · have h1 : (a.extractLsb' 0 2).toNat = 0 := by
      simp only [misaligned, bne_eq_false_iff_eq] at h
      rw [h]; rfl
    simp only [BitVec.extractLsb'_toNat, Nat.shiftRight_zero] at h1
    simp only [laneIndex, Width.bytes] at *
    omega

/-- What the checks let through (20_memory.md R105). -/
theorem accessFault_none_iff (w : Width) (a : Word) : accessFault w a = none ↔ misaligned w a = false ∧ mapped a = true := by
  unfold accessFault
  cases misaligned w a <;> cases mapped a <;> simp

theorem accessFault_misaligned_iff (w : Width) (a : Word) : accessFault w a = some .misaligned ↔ misaligned w a = true := by
  unfold accessFault
  cases misaligned w a <;> cases mapped a <;> simp

theorem accessFault_unmapped_iff (w : Width) (a : Word) :
    accessFault w a = some .unmapped ↔ misaligned w a = false ∧ mapped a = false := by
  unfold accessFault
  cases misaligned w a <;> cases mapped a <;> simp

/-! ## Lanes -/

theorem bytes_eq {x y : Byte} (h : ∀ i, i < 8 → x.getLsbD i = y.getLsbD i) : x = y := BitVec.eq_of_getLsbD_eq (fun i hi => h i hi)

/-- Lane `k` of the word a write leaves: a stored byte inside the access, the old lane outside it (20_memory.md R97). -/
theorem laneOf_mergeLanes (w : Width) {lane k : Nat} (old v : Word) (ha : lane % w.bytes = 0) (hl : lane + w.bytes ≤ 4) (hk : k < 4) :
    laneOf (mergeLanes w lane old v) k = if lane ≤ k ∧ k < lane + w.bytes then storedByte w v (k - lane) else laneOf old k := by
  cases w
  · simp only [Width.bytes] at *
    obtain rfl | rfl | rfl | rfl : lane = 0 ∨ lane = 1 ∨ lane = 2 ∨ lane = 3 := by omega
    all_goals
      obtain rfl | rfl | rfl | rfl : k = 0 ∨ k = 1 ∨ k = 2 ∨ k = 3 := by omega
      all_goals
        refine bytes_eq (fun i hi => ?_)
        simp only [laneOf, mergeLanes, storedByte, Width.bytes, BitVec.getLsbD_append, BitVec.getLsbD_extractLsb']
        interval_cases i <;> simp
  · simp only [Width.bytes] at *
    obtain rfl | rfl : lane = 0 ∨ lane = 2 := by omega
    all_goals
      obtain rfl | rfl | rfl | rfl : k = 0 ∨ k = 1 ∨ k = 2 ∨ k = 3 := by omega
      all_goals
        refine bytes_eq (fun i hi => ?_)
        simp only [laneOf, mergeLanes, storedByte, Width.bytes, Nat.reduceLT, lt_self_iff_false, if_true, if_false, BitVec.getLsbD_append, BitVec.getLsbD_extractLsb']
        interval_cases i <;> simp
  · simp only [Width.bytes] at *
    obtain rfl : lane = 0 := by omega
    obtain rfl | rfl | rfl | rfl : k = 0 ∨ k = 1 ∨ k = 2 ∨ k = 3 := by omega
    all_goals rfl

/-! ## Reads and writes of the bus -/

theorem busWrite_rom {c : Config} {m : Memory} {w : Width} {a v : Word} (h : region a = .rom) : busWrite c m w a v = m := by
  simp [busWrite, h]

theorem busWrite_ram {c : Config} {m : Memory} {w : Width} {a v : Word} (h : region a = .ram) :
    busWrite c m w a v = m.writeWord (homeWord c a) (mergeLanes w (laneIndex a) (busWord c m a) v) := by
  simp [busWrite, h]

theorem wf_busWrite {c : Config} {m : Memory} (w : Width) (a v : Word) (hm : m.wf = true) : (busWrite c m w a v).wf = true := by
  unfold busWrite
  split
  · exact Memory.wf_writeWord _ _ hm
  · exact hm
  · exact hm

theorem within_busWrite {c : Config} {m : Memory} (w : Width) (a v : Word) (hc : c.wf = true) (hm : m.within c = true) :
    (busWrite c m w a v).within c = true := by
  unfold busWrite
  split
  · rename_i h
    exact Memory.within_writeWord _ (fun k hk => existsAt_homeWord hc ((mapped_iff a).2 (.inr h)) hk) hm
  · exact hm
  · exact hm

/-- Every byte after an aligned store to RAM: the stored bytes from the home address on, every other byte as before (20_memory.md R97). -/
theorem read_busWrite_ram {c : Config} {m : Memory} {w : Width} {a : Word} (v : Word) (hc : c.wf = true) (hm : m.wf = true)
    (hr : region a = .ram) (ha : misaligned w a = false) (k : Nat) :
    (busWrite c m w a v).read k =
      if homeAddress c a ≤ k ∧ k < homeAddress c a + w.bytes then storedByte w v (k - homeAddress c a) else m.read k := by
  obtain ⟨hal, hle⟩ := laneIndex_of_aligned ha
  rw [busWrite_ram hr, homeAddress_eq hc a]
  generalize hb : homeWord c a = b at *
  by_cases hin : b ≤ k ∧ k < b + 4
  · obtain ⟨j, hj, rfl⟩ : ∃ j, j < 4 ∧ k = b + j := ⟨k - b, by omega, by omega⟩
    rw [Memory.read_writeWord_lane b _ hj hm, laneOf_mergeLanes w _ _ hal hle hj, busWord, hb, Memory.laneOf_readWord m b hj]
    rw [show b + j - (b + laneIndex a) = j - laneIndex a by omega]
    exact if_congr (by omega) rfl rfl
  · rw [Memory.read_writeWord_of_outside _ _ (by omega), if_neg (by omega)]

/-- A store never changes a byte of the ROM (20_memory.md R86, R87). -/
theorem read_busWrite_romByte {c : Config} (m : Memory) (w : Width) (a v : Word) (hc : c.wf = true) {k : Nat} (hk : k < ramBase) :
    (busWrite c m w a v).read k = m.read k := by
  unfold busWrite
  split
  · rename_i h
    have := (homeWord_bounds hc a).2 h
    exact Memory.read_writeWord_of_outside _ _ (by omega)
  · rfl
  · rfl

/-- A vector address is a multiple of 4 (60_exceptions.md R421). -/
theorem vectorAddress_aligned (mtvec cause : Word) : misaligned .word (vectorAddress mtvec cause) = false := by
  have h1 : (mtvec &&& ~~~3#32).toNat % 4 = 0 := by
    have : (mtvec &&& ~~~3#32).extractLsb' 0 2 = 0 := by
      apply BitVec.eq_of_getLsbD_eq
      intro i hi
      interval_cases i <;> simp
    have := congrArg BitVec.toNat this
    simpa [BitVec.extractLsb'_toNat] using this
  have h3 : ((((cause.extractLsb' 0 31).setWidth 32) <<< 2 : Word)).toNat % 4 = 0 := by
    simp only [BitVec.toNat_shiftLeft, Nat.shiftLeft_eq]
    omega
  have h : (vectorAddress mtvec cause).toNat % 4 = 0 := by
    unfold vectorAddress
    generalize (mtvec &&& ~~~3#32) = x at *
    generalize (((cause.extractLsb' 0 31).setWidth 32) <<< 2 : Word) = y at *
    split
    · simp only [BitVec.toNat_add, BitVec.ofNat_eq_ofNat, BitVec.toNat_ofNat]; omega
    · simp only [BitVec.toNat_add, exceptionTableOffset, BitVec.toNat_ofNat]; omega
  simp only [misaligned, bne_eq_false_iff_eq]
  apply BitVec.eq_of_toNat_eq
  simp only [BitVec.extractLsb'_toNat, Nat.shiftRight_zero]
  simpa using h

/-- So the read of the vector table can fail in one way only (R420, R428). -/
theorem accessFault_vector (mtvec cause : Word) :
    accessFault .word (vectorAddress mtvec cause) = if mapped (vectorAddress mtvec cause) then none else some .unmapped := by
  simp [accessFault, vectorAddress_aligned]

end Sys2Proof.Machine
end

