-- ==== Sys2Proof/Laws/State.lean ====
section
/-!
SUPPORT. One lemma a field for each update of the state, true by rfl, so that no later proof unfolds a record update.
-/
namespace Sys2Proof.Machine

open Sys2Proof

/-! ## State.flush -/

@[simp] theorem State.flush_cfg (s : State) : (s.flush).cfg = s.cfg := rfl
@[simp] theorem State.flush_regs (s : State) : (s.flush).regs = s.regs := rfl
@[simp] theorem State.flush_csr (s : State) : (s.flush).csr = s.csr := rfl
@[simp] theorem State.flush_mem (s : State) : (s.flush).mem = s.mem := rfl
@[simp] theorem State.flush_ifBank (s : State) : (s.flush).ifBank = FetchBank.default := rfl
@[simp] theorem State.flush_deBank (s : State) : (s.flush).deBank = DecodeBank.default := rfl
@[simp] theorem State.flush_exBank (s : State) : (s.flush).exBank = ExecuteBank.default := rfl
@[simp] theorem State.flush_memBank (s : State) : (s.flush).memBank = MemoryBank.default := rfl
@[simp] theorem State.flush_trBank (s : State) : (s.flush).trBank = s.trBank := rfl
@[simp] theorem State.flush_orch (s : State) : (s.flush).orch = ⟨s.orch.mode, .F⟩ := rfl

/-! ## State.addCycles -/

@[simp] theorem State.addCycles_cfg (s : State) (n : BitVec 64) : (s.addCycles n).cfg = s.cfg := rfl
@[simp] theorem State.addCycles_regs (s : State) (n : BitVec 64) : (s.addCycles n).regs = s.regs := rfl
@[simp] theorem State.addCycles_csr (s : State) (n : BitVec 64) : (s.addCycles n).csr = { s.csr with cycles := s.csr.cycles + n } := rfl
@[simp] theorem State.addCycles_mem (s : State) (n : BitVec 64) : (s.addCycles n).mem = s.mem := rfl
@[simp] theorem State.addCycles_ifBank (s : State) (n : BitVec 64) : (s.addCycles n).ifBank = s.ifBank := rfl
@[simp] theorem State.addCycles_deBank (s : State) (n : BitVec 64) : (s.addCycles n).deBank = s.deBank := rfl
@[simp] theorem State.addCycles_exBank (s : State) (n : BitVec 64) : (s.addCycles n).exBank = s.exBank := rfl
@[simp] theorem State.addCycles_memBank (s : State) (n : BitVec 64) : (s.addCycles n).memBank = s.memBank := rfl
@[simp] theorem State.addCycles_trBank (s : State) (n : BitVec 64) : (s.addCycles n).trBank = s.trBank := rfl
@[simp] theorem State.addCycles_orch (s : State) (n : BitVec 64) : (s.addCycles n).orch = s.orch := rfl

/-! ## State.acceptTrap -/

@[simp] theorem State.acceptTrap_cfg (s : State) (ctx : TrapContext) : (s.acceptTrap ctx).cfg = s.cfg := rfl
@[simp] theorem State.acceptTrap_regs (s : State) (ctx : TrapContext) : (s.acceptTrap ctx).regs = s.regs := rfl
@[simp] theorem State.acceptTrap_csr (s : State) (ctx : TrapContext) : (s.acceptTrap ctx).csr = s.csr := rfl
@[simp] theorem State.acceptTrap_mem (s : State) (ctx : TrapContext) : (s.acceptTrap ctx).mem = s.mem := rfl
@[simp] theorem State.acceptTrap_ifBank (s : State) (ctx : TrapContext) : (s.acceptTrap ctx).ifBank = FetchBank.default := rfl
@[simp] theorem State.acceptTrap_deBank (s : State) (ctx : TrapContext) : (s.acceptTrap ctx).deBank = DecodeBank.default := rfl
@[simp] theorem State.acceptTrap_exBank (s : State) (ctx : TrapContext) : (s.acceptTrap ctx).exBank = ExecuteBank.default := rfl
@[simp] theorem State.acceptTrap_memBank (s : State) (ctx : TrapContext) : (s.acceptTrap ctx).memBank = MemoryBank.default := rfl
@[simp] theorem State.acceptTrap_trBank (s : State) (ctx : TrapContext) : (s.acceptTrap ctx).trBank = ⟨.setCsrAndComputeVector, ctx.mepc, ctx.mcause, ctx.mtval, s.trBank.pcToSet⟩ := rfl
@[simp] theorem State.acceptTrap_orch (s : State) (ctx : TrapContext) : (s.acceptTrap ctx).orch = ⟨.trap, .F⟩ := rfl

/-! ## State.acceptMret -/

@[simp] theorem State.acceptMret_cfg (s : State) : (s.acceptMret).cfg = s.cfg := rfl
@[simp] theorem State.acceptMret_regs (s : State) : (s.acceptMret).regs = s.regs := rfl
@[simp] theorem State.acceptMret_csr (s : State) : (s.acceptMret).csr = s.csr := rfl
@[simp] theorem State.acceptMret_mem (s : State) : (s.acceptMret).mem = s.mem := rfl
@[simp] theorem State.acceptMret_ifBank (s : State) : (s.acceptMret).ifBank = FetchBank.default := rfl
@[simp] theorem State.acceptMret_deBank (s : State) : (s.acceptMret).deBank = DecodeBank.default := rfl
@[simp] theorem State.acceptMret_exBank (s : State) : (s.acceptMret).exBank = ExecuteBank.default := rfl
@[simp] theorem State.acceptMret_memBank (s : State) : (s.acceptMret).memBank = MemoryBank.default := rfl
@[simp] theorem State.acceptMret_trBank (s : State) : (s.acceptMret).trBank = { s.trBank with state := .returnFromTrap } := rfl
@[simp] theorem State.acceptMret_orch (s : State) : (s.acceptMret).orch = ⟨.trap, .F⟩ := rfl

/-! ## State.setProgramCounter -/

@[simp] theorem State.setProgramCounter_cfg (s : State) (target : Word) : (s.setProgramCounter target).cfg = s.cfg := rfl
@[simp] theorem State.setProgramCounter_regs (s : State) (target : Word) : (s.setProgramCounter target).regs = s.regs := rfl
@[simp] theorem State.setProgramCounter_csr (s : State) (target : Word) : (s.setProgramCounter target).csr = s.csr := rfl
@[simp] theorem State.setProgramCounter_mem (s : State) (target : Word) : (s.setProgramCounter target).mem = s.mem := rfl
@[simp] theorem State.setProgramCounter_ifBank (s : State) (target : Word) : (s.setProgramCounter target).ifBank = { s.ifBank with pc := target, pcPlus4 := target } := rfl
@[simp] theorem State.setProgramCounter_deBank (s : State) (target : Word) : (s.setProgramCounter target).deBank = s.deBank := rfl
@[simp] theorem State.setProgramCounter_exBank (s : State) (target : Word) : (s.setProgramCounter target).exBank = s.exBank := rfl
@[simp] theorem State.setProgramCounter_memBank (s : State) (target : Word) : (s.setProgramCounter target).memBank = s.memBank := rfl
@[simp] theorem State.setProgramCounter_trBank (s : State) (target : Word) : (s.setProgramCounter target).trBank = { s.trBank with state := .idle, pcToSet := target } := rfl
@[simp] theorem State.setProgramCounter_orch (s : State) (target : Word) : (s.setProgramCounter target).orch = { s.orch with mode := .pipeline } := rfl

/-! ## State.retire -/

@[simp] theorem State.retire_cfg (s : State) (i : Instr) (value target : Option Word) : (s.retire i value target).cfg = s.cfg := rfl
@[simp] theorem State.retire_regs (s : State) (i : Instr) (value target : Option Word) : (s.retire i value target).regs = s.regs := rfl
@[simp] theorem State.retire_csr (s : State) (i : Instr) (value target : Option Word) : (s.retire i value target).csr = countedCsr s.csr := rfl
@[simp] theorem State.retire_mem (s : State) (i : Instr) (value target : Option Word) : (s.retire i value target).mem = s.mem := rfl
@[simp] theorem State.retire_ifBank (s : State) (i : Instr) (value target : Option Word) : (s.retire i value target).ifBank = s.fetchedBank i := rfl
@[simp] theorem State.retire_deBank (s : State) (i : Instr) (value target : Option Word) : (s.retire i value target).deBank = decodeLatch (s.fetchedBank i) s.regs := rfl
@[simp] theorem State.retire_exBank (s : State) (i : Instr) (value target : Option Word) : (s.retire i value target).exBank = s.executedBank i target := rfl
@[simp] theorem State.retire_memBank (s : State) (i : Instr) (value target : Option Word) : (s.retire i value target).memBank = ⟨value.getD 0, value.isSome, rdOf (encode i), s.fetchAddress, false, 0, 0, 0⟩ := rfl
@[simp] theorem State.retire_trBank (s : State) (i : Instr) (value target : Option Word) : (s.retire i value target).trBank = s.trBank := rfl
@[simp] theorem State.retire_orch (s : State) (i : Instr) (value target : Option Word) : (s.retire i value target).orch = s.orch := rfl

/-! ## State.retireWriting -/

@[simp] theorem State.retireWriting_cfg (s : State) (i : Instr) (rd : RegIdx) (v : Word) (target : Option Word) : (s.retireWriting i rd v target).cfg = s.cfg := rfl
@[simp] theorem State.retireWriting_regs (s : State) (i : Instr) (rd : RegIdx) (v : Word) (target : Option Word) : (s.retireWriting i rd v target).regs = RegFile.write s.regs rd v := rfl
@[simp] theorem State.retireWriting_csr (s : State) (i : Instr) (rd : RegIdx) (v : Word) (target : Option Word) : (s.retireWriting i rd v target).csr = countedCsr s.csr := rfl
@[simp] theorem State.retireWriting_mem (s : State) (i : Instr) (rd : RegIdx) (v : Word) (target : Option Word) : (s.retireWriting i rd v target).mem = s.mem := rfl
@[simp] theorem State.retireWriting_ifBank (s : State) (i : Instr) (rd : RegIdx) (v : Word) (target : Option Word) : (s.retireWriting i rd v target).ifBank = s.fetchedBank i := rfl
@[simp] theorem State.retireWriting_deBank (s : State) (i : Instr) (rd : RegIdx) (v : Word) (target : Option Word) : (s.retireWriting i rd v target).deBank = decodeLatch (s.fetchedBank i) s.regs := rfl
@[simp] theorem State.retireWriting_exBank (s : State) (i : Instr) (rd : RegIdx) (v : Word) (target : Option Word) : (s.retireWriting i rd v target).exBank = s.executedBank i target := rfl
@[simp] theorem State.retireWriting_memBank (s : State) (i : Instr) (rd : RegIdx) (v : Word) (target : Option Word) : (s.retireWriting i rd v target).memBank = ⟨v, true, rdOf (encode i), s.fetchAddress, false, 0, 0, 0⟩ := rfl
@[simp] theorem State.retireWriting_trBank (s : State) (i : Instr) (rd : RegIdx) (v : Word) (target : Option Word) : (s.retireWriting i rd v target).trBank = s.trBank := rfl
@[simp] theorem State.retireWriting_orch (s : State) (i : Instr) (rd : RegIdx) (v : Word) (target : Option Word) : (s.retireWriting i rd v target).orch = s.orch := rfl

/-! ## The register file -/

@[simp] theorem RegFile.read_zero (regs : RegFile) : RegFile.read regs 0#5 = 0 := rfl

/-- A read after a write (10_state.md R21). -/
theorem RegFile.read_write (regs : RegFile) (rd r : RegIdx) (v : Word) :
    RegFile.read (RegFile.write regs rd v) r = if r = rd ∧ r ≠ 0 then v else RegFile.read regs r := by
  unfold RegFile.write
  by_cases hd : rd = 0
  · rw [if_pos hd, if_neg (fun h => h.2 (h.1.trans hd))]
  · rw [if_neg hd]
    unfold RegFile.read
    by_cases hr : r = 0
    · rw [if_pos hr, if_pos hr, if_neg (fun h => h.2 hr)]
    · rw [if_neg hr, if_neg hr]
      by_cases h : r = rd
      · subst h
        rw [if_pos ⟨rfl, hr⟩]
        exact Vector.getElem_set_self _
      · rw [if_neg (fun h' => h h'.1)]
        exact Vector.getElem_set_ne _ _ (fun e => h (BitVec.eq_of_toNat_eq e.symm))

/-- Cell 0 is never written (R21). -/
theorem RegFile.write_cell_zero (regs : RegFile) (rd : RegIdx) (v : Word) : (RegFile.write regs rd v)[0] = regs[0] := by
  unfold RegFile.write
  split
  · rfl
  · rename_i h
    have : rd.toNat ≠ 0 := fun e => h (BitVec.eq_of_toNat_eq (by simpa using e))
    exact Vector.getElem_set_ne _ _ this

theorem State.reg_eq (s : State) (r : RegIdx) : s.reg r = RegFile.read s.regs r := rfl

/-- `x0` reads as zero, whatever the state (R21). -/
@[simp] theorem State.reg_zero (s : State) : s.reg 0#5 = 0 := rfl

/-- Registers after an update that leaves the file alone. -/
theorem State.reg_congr {s t : State} (h : t.regs = s.regs) (r : RegIdx) : t.reg r = s.reg r := by
  rw [State.reg_eq, State.reg_eq, h]

/-! ## The program counter after each update -/

@[simp] theorem State.fetchAddress_setProgramCounter_flushed (s : State) (target : Word) (h : s.exBank.branchValid = false) :
    (s.setProgramCounter target).fetchAddress = target := by
  simp [State.fetchAddress, h]

/-- The next fetch of a completing instruction (00_scope.md R13). -/
theorem State.fetchAddress_retire (s : State) (i : Instr) (value target : Option Word) :
    (s.retire i value target).fetchAddress = target.getD (s.fetchAddress + 4) := by
  cases target <;> simp [State.fetchAddress, State.executedBank, State.fetchedBank]

theorem State.fetchAddress_retireWriting (s : State) (i : Instr) (rd : RegIdx) (v : Word) (target : Option Word) :
    (s.retireWriting i rd v target).fetchAddress = target.getD (s.fetchAddress + 4) :=
  State.fetchAddress_retire s i (some v) target

end Sys2Proof.Machine
end

