-- ==== Sys2Proof/Laws/Trap.lean ====
section
/-!
SUPPORT. Everything taking an exception can do, and everything returning from one does (60_exceptions.md R412, R420 to R424, R428).
-/
namespace Sys2Proof.Machine

open Sys2Proof

/-- The entry is delivered: the context saved in the CSRs, the handler's address fetched next. -/
theorem takeTrap_of_mapped (stage : TrapStage) (ctx : TrapContext) (s : State)
    (h : mapped (vectorAddress s.csr.mtvec ctx.mcause) = true) :
    takeTrap stage ctx s =
      { ((s.acceptTrap ctx).addCycles (acceptedAfter stage)).setProgramCounter (s.wordAt (vectorAddress s.csr.mtvec ctx.mcause)) with
        csr := trappedCsr s.csr (acceptedAfter stage + 2) ctx.mepc ctx.mcause ctx.mtval } := by
  have ha : accessFault .word (vectorAddress s.csr.mtvec ctx.mcause) = none := by rw [accessFault_vector, h]; rfl
  simp only [takeTrap, ha, trappedCsr, BitVec.add_assoc]

/-- The entry cannot be read: the machine waits in `SetCsrAndComputeVector`, nothing saved. -/
theorem takeTrap_of_unmapped (stage : TrapStage) (ctx : TrapContext) (s : State)
    (h : mapped (vectorAddress s.csr.mtvec ctx.mcause) = false) :
    takeTrap stage ctx s = (s.acceptTrap ctx).addCycles (acceptedAfter stage) := by
  have ha : accessFault .word (vectorAddress s.csr.mtvec ctx.mcause) = some .unmapped := by rw [accessFault_vector, h]; rfl
  simp only [takeTrap, ha]

/-- Both cases in one: what a caller needs to know of an exception (R412). -/
theorem takeTrap_cases (stage : TrapStage) (ctx : TrapContext) (s : State) :
    (mapped (vectorAddress s.csr.mtvec ctx.mcause) = true ∧
      takeTrap stage ctx s =
        { ((s.acceptTrap ctx).addCycles (acceptedAfter stage)).setProgramCounter
            (s.wordAt (vectorAddress s.csr.mtvec ctx.mcause)) with
          csr := trappedCsr s.csr (acceptedAfter stage + 2) ctx.mepc ctx.mcause ctx.mtval }) ∨
    (mapped (vectorAddress s.csr.mtvec ctx.mcause) = false ∧
      takeTrap stage ctx s = (s.acceptTrap ctx).addCycles (acceptedAfter stage)) := by
  cases h : mapped (vectorAddress s.csr.mtvec ctx.mcause)
  · exact .inr ⟨rfl, takeTrap_of_unmapped stage ctx s h⟩
  · exact .inl ⟨rfl, takeTrap_of_mapped stage ctx s h⟩

/-- An exception leaves the parameters, the registers and memory alone (R412). -/
@[simp] theorem takeTrap_cfg (stage : TrapStage) (ctx : TrapContext) (s : State) : (takeTrap stage ctx s).cfg = s.cfg := by
  obtain ⟨_, h⟩ | ⟨_, h⟩ := takeTrap_cases stage ctx s <;> rw [h] <;> rfl

@[simp] theorem takeTrap_regs (stage : TrapStage) (ctx : TrapContext) (s : State) : (takeTrap stage ctx s).regs = s.regs := by
  obtain ⟨_, h⟩ | ⟨_, h⟩ := takeTrap_cases stage ctx s <;> rw [h] <;> rfl

@[simp] theorem takeTrap_mem (stage : TrapStage) (ctx : TrapContext) (s : State) : (takeTrap stage ctx s).mem = s.mem := by
  obtain ⟨_, h⟩ | ⟨_, h⟩ := takeTrap_cases stage ctx s <;> rw [h] <;> rfl

/-- The return: the next fetch at `mepc`, the latch and every CSR but `cycles` as before (R424, R416, 44_system_csr.md R375). -/
theorem returnFromTrap_eq (s : State) :
    returnFromTrap s =
      { s.flush with
        csr := { s.csr with cycles := s.csr.cycles + 5 }
        ifBank := ⟨s.csr.mepc, s.csr.mepc, bootVector⟩
        trBank := { s.trBank with state := .idle, pcToSet := s.csr.mepc }
        orch := ⟨.pipeline, .F⟩ } := rfl

end Sys2Proof.Machine
end

