-- ==== Sys2Proof/Laws/Retire.lean ====
section
/-!
SUPPORT. The cases of the shared load, store and CSR operations: which complete, which trap, and with what (43_load_store.md R340, 44_system_csr.md R361).
-/
namespace Sys2Proof.Machine

open Sys2Proof

theorem State.load_of_ok {s : State} {i : Instr} {rd rs1 : RegIdx} {imm : BitVec 12} {w : Width} {unsigned : Bool}
    (ha : misaligned w (s.effectiveAddress rs1 imm) = false) (hm : mapped (s.effectiveAddress rs1 imm) = true) :
    s.load i rd rs1 imm w unsigned =
      s.retireWriting i rd (extendLoaded w unsigned (busRead s.cfg s.mem w (s.effectiveAddress rs1 imm))) none := by
  simp only [State.load, (accessFault_none_iff w _).2 ⟨ha, hm⟩]

theorem State.load_of_misaligned {s : State} {i : Instr} {rd rs1 : RegIdx} {imm : BitVec 12} {w : Width} {unsigned : Bool}
    (ha : misaligned w (s.effectiveAddress rs1 imm) = true) :
    s.load i rd rs1 imm w unsigned = s.memoryTrap i .loadAddressMisaligned := by
  simp only [State.load, (accessFault_misaligned_iff w _).2 ha]

theorem State.load_of_unmapped {s : State} {i : Instr} {rd rs1 : RegIdx} {imm : BitVec 12} {w : Width} {unsigned : Bool}
    (ha : misaligned w (s.effectiveAddress rs1 imm) = false) (hm : mapped (s.effectiveAddress rs1 imm) = false) :
    s.load i rd rs1 imm w unsigned = s.memoryTrap i .loadAccessFault := by
  simp only [State.load, (accessFault_unmapped_iff w _).2 ⟨ha, hm⟩]

theorem State.store_of_ok {s : State} {i : Instr} {rs2 rs1 : RegIdx} {imm : BitVec 12} {w : Width}
    (ha : misaligned w (s.effectiveAddress rs1 imm) = false) (hm : mapped (s.effectiveAddress rs1 imm) = true) :
    s.store i rs2 rs1 imm w =
      { s.retire i none none with mem := busWrite s.cfg s.mem w (s.effectiveAddress rs1 imm) (s.reg rs2) } := by
  simp only [State.store, (accessFault_none_iff w _).2 ⟨ha, hm⟩]

theorem State.store_of_misaligned {s : State} {i : Instr} {rs2 rs1 : RegIdx} {imm : BitVec 12} {w : Width}
    (ha : misaligned w (s.effectiveAddress rs1 imm) = true) :
    s.store i rs2 rs1 imm w = s.memoryTrap i .storeAMOAddressMisaligned := by
  simp only [State.store, (accessFault_misaligned_iff w _).2 ha]

theorem State.store_of_unmapped {s : State} {i : Instr} {rs2 rs1 : RegIdx} {imm : BitVec 12} {w : Width}
    (ha : misaligned w (s.effectiveAddress rs1 imm) = false) (hm : mapped (s.effectiveAddress rs1 imm) = false) :
    s.store i rs2 rs1 imm w = s.memoryTrap i .storeAMOAccessFault := by
  simp only [State.store, (accessFault_unmapped_iff w _).2 ⟨ha, hm⟩]

/-- A load retires with one register written, or traps. -/
theorem State.load_cases (s : State) (i : Instr) (rd rs1 : RegIdx) (imm : BitVec 12) (w : Width) (unsigned : Bool) :
    (∃ v, s.load i rd rs1 imm w unsigned = s.retireWriting i rd v none) ∨
    (∃ e, s.load i rd rs1 imm w unsigned = s.memoryTrap i e) := by
  cases ha : misaligned w (s.effectiveAddress rs1 imm)
  · cases hm : mapped (s.effectiveAddress rs1 imm)
    · exact .inr ⟨_, State.load_of_unmapped ha hm⟩
    · exact .inl ⟨_, State.load_of_ok ha hm⟩
  · exact .inr ⟨_, State.load_of_misaligned ha⟩

/-- A store retires with one bus write, or traps. -/
theorem State.store_cases (s : State) (i : Instr) (rs2 rs1 : RegIdx) (imm : BitVec 12) (w : Width) :
    (s.store i rs2 rs1 imm w =
      { s.retire i none none with mem := busWrite s.cfg s.mem w (s.effectiveAddress rs1 imm) (s.reg rs2) }) ∨
    (∃ e, s.store i rs2 rs1 imm w = s.memoryTrap i e) := by
  cases ha : misaligned w (s.effectiveAddress rs1 imm)
  · cases hm : mapped (s.effectiveAddress rs1 imm)
    · exact .inr ⟨_, State.store_of_unmapped ha hm⟩
    · exact .inl (State.store_of_ok ha hm)
  · exact .inr ⟨_, State.store_of_misaligned ha⟩

/-! ## CSRs -/

@[simp] theorem csrPrivilegeOk_always (a : CsrAddr) : csrPrivilegeOk a = true := by
  have := (a.extractLsb' 8 2).isLt
  simp only [csrPrivilegeOk, decide_eq_true_eq]
  omega

/-- The access checks (R361). -/
theorem csrAccessOk_iff (a : CsrAddr) (write : Bool) :
    csrAccessOk a write = true ↔ (csrAt a).isSome = true ∧ (write = true → csrReadOnly a = false) := by
  simp only [csrAccessOk, csrPrivilegeOk_always, Bool.and_true, Bool.and_eq_true, Bool.not_eq_true', Bool.and_eq_false_iff]
  cases write <;> simp

/-- Each name has its address, and each recognised address its name (10_state.md R32). -/
theorem csrAt_csrAddress (c : Csr) : csrAt (csrAddress c) = some c := by cases c <;> rfl

theorem State.csrAccess_of_ok {s : State} {i : Instr} {rd : RegIdx} {a : CsrAddr} {read write : Bool} {new : Word → Word}
    (h : csrAccessOk a write = true) :
    s.csrAccess i rd a read write new =
      { s.retireWriting i rd (if read then csrRead s.csrInMemoryCycle a else 0) none with
        csr :=
          if write then
            csrWrite s.cfg.mstatusMask (countedCsr s.csr) a (new (if read then csrRead s.csrInMemoryCycle a else 0))
          else countedCsr s.csr } := by
  cases write <;> simp only [State.csrAccess, h, if_true] <;> rfl

theorem State.csrAccess_of_bad {s : State} {i : Instr} {rd : RegIdx} {a : CsrAddr} {read write : Bool} {new : Word → Word}
    (h : csrAccessOk a write = false) : s.csrAccess i rd a read write new = s.memoryTrap i .illegalInstruction := by
  simp [State.csrAccess, h]

/-- A CSR write never touches a counter, and keeps `mstatus` inside the mask (10_state.md R34, R35, R40). -/
theorem csrWrite_counters (mask : Word) (f : CsrFile) (a : CsrAddr) (v : Word) :
    (csrWrite mask f a v).cycles = f.cycles ∧ (csrWrite mask f a v).instret = f.instret := by
  unfold csrWrite
  split
  · rename_i c _; cases c <;> exact ⟨rfl, rfl⟩
  · exact ⟨rfl, rfl⟩

theorem csrWrite_mstatus_masked {mask : Word} {f : CsrFile} (a : CsrAddr) (v : Word) (h : f.mstatus &&& ~~~mask = 0) :
    (csrWrite mask f a v).mstatus &&& ~~~mask = 0 := by
  unfold csrWrite
  split
  · rename_i c _
    cases c <;> first
      | exact h
      | (simp only [csrStore, BitVec.and_assoc]
         have : mask &&& ~~~mask = 0 := by ext i; simp
         rw [this]; simp)
  · exact h

end Sys2Proof.Machine
end

