-- ==== Sys2Proof/Laws/Cycle.lean ====
section
/-!
SUPPORT. What one clock cycle does, one equation for each situation of the transition function (40_pipeline.md R200, 60_exceptions.md R418).
-/
namespace Sys2Proof.Machine

open Sys2Proof

theorem State.atFetch_iff (s : State) : s.atFetch = true ↔ s.orch = ⟨.pipeline, .F⟩ ∧ s.quiet := by
  rcases ho : s.orch with ⟨m, sl⟩
  simp [State.atFetch, State.quiet, ho, and_assoc]

theorem cycle_fetch {s : State} (ho : s.orch = ⟨.pipeline, .F⟩) (hq : s.quiet) :
    cycle s = .next { s.addCycles 1 with ifBank := fetchStage s, orch := ⟨.pipeline, .D⟩ } := by
  obtain ⟨h1, h2, h3⟩ := hq
  simp [cycle, evaluate, evaluatePipeline, evaluateSlot, stageCycles, stageSlot, stage, readCommitted, readStaged, committed, commit, commitPhase,
    nextSlot, State.addCycles, ho, h1, h2, h3]

theorem cycle_decode {s : State} (ho : s.orch = ⟨.pipeline, .D⟩) (hq : s.quiet) :
    cycle s = .next { s.addCycles 1 with deBank := decodeStage s.ifBank s.regs, orch := ⟨.pipeline, .E⟩ } := by
  obtain ⟨h1, h2, h3⟩ := hq
  simp [cycle, evaluate, evaluatePipeline, evaluateSlot, stageCycles, stageSlot, stage, readCommitted, readStaged, committed, commit, commitPhase,
    nextSlot, State.addCycles, ho, h1, h2, h3]

theorem cycle_execute {s : State} (ho : s.orch = ⟨.pipeline, .E⟩) (hq : s.quiet) :
    cycle s = .next { s.addCycles 1 with exBank := executeStage s.deBank, orch := ⟨.pipeline, .M⟩ } := by
  obtain ⟨h1, h2, h3⟩ := hq
  simp [cycle, evaluate, evaluatePipeline, evaluateSlot, stageCycles, stageSlot, stage, readCommitted, readStaged, committed, commit, commitPhase,
    nextSlot, State.addCycles, ho, h1, h2, h3]

theorem cycle_memory {s : State} (ho : s.orch = ⟨.pipeline, .M⟩) (hq : s.quiet) :
    cycle s = .next { s.addCycles 1 with
      memBank := memoryStage s
      mem := memoryStageMem s
      csr := memoryStageCsr s (s.addCycles 1).csr
      orch := ⟨.pipeline, .W⟩ } := by
  obtain ⟨h1, h2, h3⟩ := hq
  simp [cycle, evaluate, evaluatePipeline, evaluateSlot, stageCycles, stageSlot, stage, readCommitted, readStaged, committed, commit, commitPhase,
    nextSlot, State.addCycles, ho, h1, h2, h3]

theorem cycle_writeBack {s : State} (ho : s.orch = ⟨.pipeline, .W⟩) (hq : s.quiet) :
    cycle s = .next { s.addCycles 1 with
      regs := writeBackStage s
      csr := { s.csr with cycles := s.csr.cycles + 1, instret := s.csr.instret + 1 }
      orch := ⟨.pipeline, .F⟩ } := by
  obtain ⟨h1, h2, h3⟩ := hq
  simp [cycle, evaluate, evaluatePipeline, evaluateSlot, stageCycles, stageSlot, stage, readCommitted, readStaged, committed, commit, commitPhase,
    nextSlot, State.addCycles, ho, h1, h2, h3]

/-- MemoryAccess's trap is accepted first (R203). -/
theorem cycle_acceptMemory {s : State} (hm : s.orch.mode = .pipeline) (h : s.memBank.trap = true) :
    cycle s = .next ((s.acceptTrap ⟨s.memBank.mepc, s.memBank.mcause, s.memBank.mtval⟩).addCycles 1) := by
  simp [cycle, evaluate, evaluatePipeline, stageCycles, stageAcceptTrap, stage, readCommitted, readStaged, committed, commit, commitPhase,
    State.addCycles, State.acceptTrap, State.flush, hm, h]

theorem cycle_acceptDecode {s : State} (hm : s.orch.mode = .pipeline) (h1 : s.memBank.trap = false) (h : s.deBank.trap = true) :
    cycle s = .next ((s.acceptTrap ⟨s.deBank.mepc, s.deBank.mcause, s.deBank.mtval⟩).addCycles 1) := by
  simp [cycle, evaluate, evaluatePipeline, stageCycles, stageAcceptTrap, stage, readCommitted, readStaged, committed, commit, commitPhase,
    State.addCycles, State.acceptTrap, State.flush, hm, h, h1]

theorem cycle_acceptMret {s : State} (hm : s.orch.mode = .pipeline) (h1 : s.memBank.trap = false) (h2 : s.deBank.trap = false)
    (h : s.deBank.mret = true) : cycle s = .next (s.acceptMret.addCycles 1) := by
  simp [cycle, evaluate, evaluatePipeline, stageCycles, stageAcceptMret, stage, readCommitted, readStaged, committed, commit, commitPhase,
    State.addCycles, State.acceptMret, State.flush, hm, h, h1, h2]

theorem cycle_setCsr {s : State} (hm : s.orch.mode = .trap) (ht : s.trBank.state = .setCsrAndComputeVector)
    (hv : mapped (vectorAddress s.csr.mtvec s.trBank.mcause) = true) :
    cycle s = .next { s with
      csr := trappedCsr s.csr 1 s.trBank.mepc s.trBank.mcause s.trBank.mtval
      trBank := { s.trBank with pcToSet := s.wordAt (vectorAddress s.csr.mtvec s.trBank.mcause), state := .setProgramCounter } } := by
  have ha : accessFault .word (vectorAddress s.csr.mtvec s.trBank.mcause) = none := by rw [accessFault_vector, hv]; rfl
  simp [cycle, evaluate, evaluateTrap, stageCycles, stage, readCommitted, readStaged, committed, commit, commitPhase, hm, ht, ha, trappedCsr]

/-- FATAL (60_exceptions.md R428). -/
theorem cycle_fatal {s : State} (hm : s.orch.mode = .trap) (ht : s.trBank.state = .setCsrAndComputeVector)
    (hv : mapped (vectorAddress s.csr.mtvec s.trBank.mcause) = false) : cycle s = .fault .fatalVectorRead := by
  have ha : accessFault .word (vectorAddress s.csr.mtvec s.trBank.mcause) = some .unmapped := by rw [accessFault_vector, hv]; rfl
  simp [cycle, evaluate, evaluateTrap, stageCycles, stage, readCommitted, readStaged, committed, hm, ht, ha]

/-- A step from a FATAL-bound state is that cycle. -/
theorem step_fatal {s : State} (h : s.fatalNext) : step s = .fault .fatalVectorRead := by
  have hf : s.atFetch = false := by simp [State.atFetch, h.1]
  rw [step, hf]
  exact cycle_fatal h.1 h.2.1 h.2.2

theorem cycle_setProgramCounter {s : State} (hm : s.orch.mode = .trap) (ht : s.trBank.state = .setProgramCounter) :
    cycle s = .next ((s.setProgramCounter s.trBank.pcToSet).addCycles 1) := by
  simp [cycle, evaluate, evaluateTrap, stageCycles, stage, readCommitted, readStaged, committed, commit, commitPhase, State.addCycles,
    State.setProgramCounter, hm, ht]

theorem cycle_returnFromTrap {s : State} (hm : s.orch.mode = .trap) (ht : s.trBank.state = .returnFromTrap) :
    cycle s = .next { s.addCycles 1 with trBank := { s.trBank with pcToSet := s.csr.mepc, state := .setProgramCounter } } := by
  simp [cycle, evaluate, evaluateTrap, stageCycles, stage, readCommitted, readStaged, committed, commit, commitPhase, State.addCycles, hm, ht]

/-- Trap mode with an idle controller, which no run reaches (R418): only the counter moves. -/
theorem cycle_idle {s : State} (hm : s.orch.mode = .trap) (ht : s.trBank.state = .idle) : cycle s = .next (s.addCycles 1) := by
  simp [cycle, evaluate, evaluateTrap, stageCycles, stage, readCommitted, readStaged, committed, commit, commitPhase, State.addCycles, hm, ht]

/-! ## All situations at once -/

/-- Every next state of a cycle, with the situation it comes from. A proof about all cycles goes by `cases` on `cycle_shape`. -/
inductive CycleShape (s : State) : State → Prop where
  | acceptMemory (hm : s.orch.mode = .pipeline) (h : s.memBank.trap = true) :
      CycleShape s ((s.acceptTrap ⟨s.memBank.mepc, s.memBank.mcause, s.memBank.mtval⟩).addCycles 1)
  | acceptDecode (hm : s.orch.mode = .pipeline) (h1 : s.memBank.trap = false) (h : s.deBank.trap = true) :
      CycleShape s ((s.acceptTrap ⟨s.deBank.mepc, s.deBank.mcause, s.deBank.mtval⟩).addCycles 1)
  | acceptMret (hm : s.orch.mode = .pipeline) (h1 : s.memBank.trap = false) (h2 : s.deBank.trap = false) (h : s.deBank.mret = true) :
      CycleShape s (s.acceptMret.addCycles 1)
  | fetch (hs : s.inSlot .F) : CycleShape s { s.addCycles 1 with ifBank := fetchStage s, orch := ⟨.pipeline, .D⟩ }
  | decode (hs : s.inSlot .D) : CycleShape s { s.addCycles 1 with deBank := decodeStage s.ifBank s.regs, orch := ⟨.pipeline, .E⟩ }
  | execute (hs : s.inSlot .E) : CycleShape s { s.addCycles 1 with exBank := executeStage s.deBank, orch := ⟨.pipeline, .M⟩ }
  | memory (hs : s.inSlot .M) : CycleShape s { s.addCycles 1 with
      memBank := memoryStage s
      mem := memoryStageMem s
      csr := memoryStageCsr s (s.addCycles 1).csr
      orch := ⟨.pipeline, .W⟩ }
  | writeBack (hs : s.inSlot .W) : CycleShape s { s.addCycles 1 with
      regs := writeBackStage s
      csr := { s.csr with cycles := s.csr.cycles + 1, instret := s.csr.instret + 1 }
      orch := ⟨.pipeline, .F⟩ }
  | idle (hm : s.orch.mode = .trap) (ht : s.trBank.state = .idle) : CycleShape s (s.addCycles 1)
  | setCsr (hm : s.orch.mode = .trap) (ht : s.trBank.state = .setCsrAndComputeVector)
      (hv : mapped (vectorAddress s.csr.mtvec s.trBank.mcause) = true) : CycleShape s { s with
      csr := trappedCsr s.csr 1 s.trBank.mepc s.trBank.mcause s.trBank.mtval
      trBank := { s.trBank with pcToSet := s.wordAt (vectorAddress s.csr.mtvec s.trBank.mcause), state := .setProgramCounter } }
  | setProgramCounter (hm : s.orch.mode = .trap) (ht : s.trBank.state = .setProgramCounter) :
      CycleShape s ((s.setProgramCounter s.trBank.pcToSet).addCycles 1)
  | returnFromTrap (hm : s.orch.mode = .trap) (ht : s.trBank.state = .returnFromTrap) :
      CycleShape s { s.addCycles 1 with trBank := { s.trBank with pcToSet := s.csr.mepc, state := .setProgramCounter } }

/-- A cycle answers a next state of one of these shapes, or is FATAL. -/
theorem cycle_shape (s : State) : (∃ t, cycle s = .next t ∧ CycleShape s t) ∨ (cycle s = .fault .fatalVectorRead ∧ s.fatalNext) := by
  cases hm : s.orch.mode with
  | pipeline =>
    left
    cases h1 : s.memBank.trap
    · cases h2 : s.deBank.trap
      · cases h3 : s.deBank.mret
        · have ho : s.orch = ⟨.pipeline, s.orch.slot⟩ := by rw [← hm]
          have hq : s.quiet := ⟨h1, h2, h3⟩
          cases hs : s.orch.slot <;> rw [hs] at ho
          · exact ⟨_, cycle_fetch ho hq, .fetch ⟨ho, hq⟩⟩
          · exact ⟨_, cycle_decode ho hq, .decode ⟨ho, hq⟩⟩
          · exact ⟨_, cycle_execute ho hq, .execute ⟨ho, hq⟩⟩
          · exact ⟨_, cycle_memory ho hq, .memory ⟨ho, hq⟩⟩
          · exact ⟨_, cycle_writeBack ho hq, .writeBack ⟨ho, hq⟩⟩
        · exact ⟨_, cycle_acceptMret hm h1 h2 h3, .acceptMret hm h1 h2 h3⟩
      · exact ⟨_, cycle_acceptDecode hm h1 h2, .acceptDecode hm h1 h2⟩
    · exact ⟨_, cycle_acceptMemory hm h1, .acceptMemory hm h1⟩
  | trap =>
    cases ht : s.trBank.state with
    | idle => exact .inl ⟨_, cycle_idle hm ht, .idle hm ht⟩
    | setCsrAndComputeVector =>
      cases hv : mapped (vectorAddress s.csr.mtvec s.trBank.mcause)
      · exact .inr ⟨cycle_fatal hm ht hv, hm, ht, hv⟩
      · exact .inl ⟨_, cycle_setCsr hm ht hv, .setCsr hm ht hv⟩
    | setProgramCounter => exact .inl ⟨_, cycle_setProgramCounter hm ht, .setProgramCounter hm ht⟩
    | returnFromTrap => exact .inl ⟨_, cycle_returnFromTrap hm ht, .returnFromTrap hm ht⟩

theorem cycle_shape_of_next {s t : State} (h : cycle s = .next t) : CycleShape s t := by
  obtain ⟨u, hu, sh⟩ | ⟨hf, -⟩ := cycle_shape s
  · rw [hu] at h; injection h with h; exact h ▸ sh
  · rw [hf] at h; cases h

/-! ## Several cycles -/

theorem runCycles_succ {s t : State} {n : Nat} (h : cycle s = .next t) : runCycles (n + 1) s = runCycles n t := by
  simp [runCycles, h]

theorem runCycles_zero (s : State) : runCycles 0 s = .next s := rfl

end Sys2Proof.Machine
end

