-- ==== Sys2Proof/Laws/Exec.lean ====
section
/-!
SUPPORT. Everything an instruction, and a step from a Fetch slot, can do: the six shapes of a next state. A proof about all instructions goes by
`cases` on `exec_shape` and never unfolds `exec`.
-/
namespace Sys2Proof.Machine

open Sys2Proof

/-- The shapes of the state an instruction leaves. -/
inductive ExecShape (s : State) (i : Instr) : State → Prop where
  /-- one register written -/
  | writing (rd : RegIdx) (v : Word) (target : Option Word) : ExecShape s i (s.retireWriting i rd v target)
  /-- nothing written -/
  | plain (target : Option Word) : ExecShape s i (s.retire i none target)
  /-- one bus write -/
  | storing (w : Width) (ea v : Word) : ExecShape s i { s.retire i none none with mem := busWrite s.cfg s.mem w ea v }
  /-- one register and one CSR written -/
  | csr (rd : RegIdx) (v : Word) (a : CsrAddr) (new : Word) :
      ExecShape s i { s.retireWriting i rd v none with csr := csrWrite s.cfg.mstatusMask (countedCsr s.csr) a new }
  /-- an exception -/
  | trapping (stage : TrapStage) (e : Exn) (tval : Word) : ExecShape s i (takeTrap stage (s.trapContext e tval) s)
  /-- MRET -/
  | returning : i = .mret → ExecShape s i (returnFromTrap s)

theorem State.load_shape (s : State) (i : Instr) (rd rs1 : RegIdx) (imm : BitVec 12) (w : Width) (unsigned : Bool) :
    ExecShape s i (s.load i rd rs1 imm w unsigned) := by
  obtain ⟨v, h⟩ | ⟨e, h⟩ := State.load_cases s i rd rs1 imm w unsigned <;> rw [h]
  · exact .writing rd v none
  · exact .trapping _ e _

theorem State.store_shape (s : State) (i : Instr) (rs2 rs1 : RegIdx) (imm : BitVec 12) (w : Width) :
    ExecShape s i (s.store i rs2 rs1 imm w) := by
  obtain h | ⟨e, h⟩ := State.store_cases s i rs2 rs1 imm w <;> rw [h]
  · exact .storing w _ _
  · exact .trapping _ e _

theorem State.csrAccess_shape (s : State) (i : Instr) (rd : RegIdx) (a : CsrAddr) (read write : Bool) (new : Word → Word) :
    ExecShape s i (s.csrAccess i rd a read write new) := by
  cases h : csrAccessOk a write
  · rw [State.csrAccess_of_bad h]; exact .trapping _ _ _
  · rw [State.csrAccess_of_ok h]
    cases write
    · exact .writing rd _ none
    · exact .csr rd _ a _

/-- Every instruction answers a next state, of one of the six shapes. -/
theorem exec_shape (i : Instr) (s : State) : ∃ t, exec i s = .next t ∧ ExecShape s i t := by
  cases i with
  | lui => exact ⟨_, rfl, .writing ..⟩
  | auipc => exact ⟨_, rfl, .writing ..⟩
  | jal => exact ⟨_, rfl, .writing ..⟩
  | jalr => exact ⟨_, rfl, .writing ..⟩
  | beq => exact ⟨_, rfl, .plain _⟩
  | bne => exact ⟨_, rfl, .plain _⟩
  | blt => exact ⟨_, rfl, .plain _⟩
  | bge => exact ⟨_, rfl, .plain _⟩
  | bltu => exact ⟨_, rfl, .plain _⟩
  | bgeu => exact ⟨_, rfl, .plain _⟩
  | lb => exact ⟨_, rfl, State.load_shape ..⟩
  | lh => exact ⟨_, rfl, State.load_shape ..⟩
  | lw => exact ⟨_, rfl, State.load_shape ..⟩
  | lbu => exact ⟨_, rfl, State.load_shape ..⟩
  | lhu => exact ⟨_, rfl, State.load_shape ..⟩
  | sb => exact ⟨_, rfl, State.store_shape ..⟩
  | sh => exact ⟨_, rfl, State.store_shape ..⟩
  | sw => exact ⟨_, rfl, State.store_shape ..⟩
  | addi => exact ⟨_, rfl, .writing ..⟩
  | slti => exact ⟨_, rfl, .writing ..⟩
  | sltiu => exact ⟨_, rfl, .writing ..⟩
  | xori => exact ⟨_, rfl, .writing ..⟩
  | ori => exact ⟨_, rfl, .writing ..⟩
  | andi => exact ⟨_, rfl, .writing ..⟩
  | slli => exact ⟨_, rfl, .writing ..⟩
  | srli => exact ⟨_, rfl, .writing ..⟩
  | srai => exact ⟨_, rfl, .writing ..⟩
  | add => exact ⟨_, rfl, .writing ..⟩
  | sub => exact ⟨_, rfl, .writing ..⟩
  | sll => exact ⟨_, rfl, .writing ..⟩
  | slt => exact ⟨_, rfl, .writing ..⟩
  | sltu => exact ⟨_, rfl, .writing ..⟩
  | xor => exact ⟨_, rfl, .writing ..⟩
  | srl => exact ⟨_, rfl, .writing ..⟩
  | sra => exact ⟨_, rfl, .writing ..⟩
  | or => exact ⟨_, rfl, .writing ..⟩
  | and => exact ⟨_, rfl, .writing ..⟩
  | csrrw => exact ⟨_, rfl, State.csrAccess_shape ..⟩
  | csrrs => exact ⟨_, rfl, State.csrAccess_shape ..⟩
  | csrrc => exact ⟨_, rfl, State.csrAccess_shape ..⟩
  | csrrwi => exact ⟨_, rfl, State.csrAccess_shape ..⟩
  | csrrsi => exact ⟨_, rfl, State.csrAccess_shape ..⟩
  | csrrci => exact ⟨_, rfl, State.csrAccess_shape ..⟩
  | mret => exact ⟨_, rfl, .returning rfl⟩
  | ecall => exact ⟨_, rfl, .trapping ..⟩
  | ebreak => exact ⟨_, rfl, .trapping ..⟩
  | wfi => exact ⟨_, rfl, .trapping ..⟩
  | sret => exact ⟨_, rfl, .trapping ..⟩
  | fence => exact ⟨_, rfl, .trapping ..⟩
  | fenceI => exact ⟨_, rfl, .trapping ..⟩

/-- A step from a Fetch slot: an exception of the fetch or of an illegal word, or a decoded instruction. -/
theorem step_shape {s : State} (h : s.atFetch = true) :
    (∃ e tval, step s = .next (takeTrap .decode (s.trapContext e tval) s)) ∨
    (∃ i, decode (s.wordAt s.fetchAddress) = .ok i ∧ step s = exec i s) := by
  simp only [step, h, if_true, runInstruction, State.fetch]
  cases hf : accessFault .word s.fetchAddress with
  | some f => cases f <;> exact .inl ⟨_, _, rfl⟩
  | none =>
    simp only [runWord]
    cases hd : decode (s.wordAt s.fetchAddress) with
    | ok i => exact .inr ⟨i, rfl, rfl⟩
    | error e => exact .inl ⟨_, _, rfl⟩

theorem step_of_not_atFetch {s : State} (h : s.atFetch = false) : step s = cycle s := by simp [step, h]

end Sys2Proof.Machine
end

