-- ==== Sys2Proof/Laws/PerInstr.lean ====
section
/-!
SUPPORT. Per instruction: the encoder agrees with the instruction's row of spec/opcode_table.json, mask and match, bit for bit.
-/
namespace Sys2Proof.Laws.TableMatch

open Sys2Proof

/-- The bits the table fixes are fixed so in the encoded word. -/
def Statement (i : Instr) : Prop := encode i &&& i.tableRow.mask = i.tableRow.value

theorem lui (rd : RegIdx) (imm : BitVec 20) : Statement (.lui rd imm) :=
  mask_uWord imm rd opLui

theorem auipc (rd : RegIdx) (imm : BitVec 20) : Statement (.auipc rd imm) :=
  mask_uWord imm rd opAuipc

theorem jal (rd : RegIdx) (offset : BitVec 21) : Statement (.jal rd offset) :=
  mask_jWord offset rd opJal

theorem jalr (rd rs1 : RegIdx) (imm : BitVec 12) : Statement (.jalr rd rs1 imm) :=
  mask_iWord imm rs1 0b000#3 rd opJalr

theorem beq (rs1 rs2 : RegIdx) (offset : BitVec 13) : Statement (.beq rs1 rs2 offset) :=
  mask_bWord offset rs2 rs1 0b000#3 opBranch

theorem bne (rs1 rs2 : RegIdx) (offset : BitVec 13) : Statement (.bne rs1 rs2 offset) :=
  mask_bWord offset rs2 rs1 0b001#3 opBranch

theorem blt (rs1 rs2 : RegIdx) (offset : BitVec 13) : Statement (.blt rs1 rs2 offset) :=
  mask_bWord offset rs2 rs1 0b100#3 opBranch

theorem bge (rs1 rs2 : RegIdx) (offset : BitVec 13) : Statement (.bge rs1 rs2 offset) :=
  mask_bWord offset rs2 rs1 0b101#3 opBranch

theorem bltu (rs1 rs2 : RegIdx) (offset : BitVec 13) : Statement (.bltu rs1 rs2 offset) :=
  mask_bWord offset rs2 rs1 0b110#3 opBranch

theorem bgeu (rs1 rs2 : RegIdx) (offset : BitVec 13) : Statement (.bgeu rs1 rs2 offset) :=
  mask_bWord offset rs2 rs1 0b111#3 opBranch

theorem lb (rd rs1 : RegIdx) (imm : BitVec 12) : Statement (.lb rd rs1 imm) :=
  mask_iWord imm rs1 0b000#3 rd opLoad

theorem lh (rd rs1 : RegIdx) (imm : BitVec 12) : Statement (.lh rd rs1 imm) :=
  mask_iWord imm rs1 0b001#3 rd opLoad

theorem lw (rd rs1 : RegIdx) (imm : BitVec 12) : Statement (.lw rd rs1 imm) :=
  mask_iWord imm rs1 0b010#3 rd opLoad

theorem lbu (rd rs1 : RegIdx) (imm : BitVec 12) : Statement (.lbu rd rs1 imm) :=
  mask_iWord imm rs1 0b100#3 rd opLoad

theorem lhu (rd rs1 : RegIdx) (imm : BitVec 12) : Statement (.lhu rd rs1 imm) :=
  mask_iWord imm rs1 0b101#3 rd opLoad

theorem sb (rs2 rs1 : RegIdx) (imm : BitVec 12) : Statement (.sb rs2 rs1 imm) :=
  mask_sWord imm rs2 rs1 0b000#3 opStore

theorem sh (rs2 rs1 : RegIdx) (imm : BitVec 12) : Statement (.sh rs2 rs1 imm) :=
  mask_sWord imm rs2 rs1 0b001#3 opStore

theorem sw (rs2 rs1 : RegIdx) (imm : BitVec 12) : Statement (.sw rs2 rs1 imm) :=
  mask_sWord imm rs2 rs1 0b010#3 opStore

theorem addi (rd rs1 : RegIdx) (imm : BitVec 12) : Statement (.addi rd rs1 imm) :=
  mask_iWord imm rs1 0b000#3 rd opOpImm

theorem slti (rd rs1 : RegIdx) (imm : BitVec 12) : Statement (.slti rd rs1 imm) :=
  mask_iWord imm rs1 0b010#3 rd opOpImm

theorem sltiu (rd rs1 : RegIdx) (imm : BitVec 12) : Statement (.sltiu rd rs1 imm) :=
  mask_iWord imm rs1 0b011#3 rd opOpImm

theorem xori (rd rs1 : RegIdx) (imm : BitVec 12) : Statement (.xori rd rs1 imm) :=
  mask_iWord imm rs1 0b100#3 rd opOpImm

theorem ori (rd rs1 : RegIdx) (imm : BitVec 12) : Statement (.ori rd rs1 imm) :=
  mask_iWord imm rs1 0b110#3 rd opOpImm

theorem andi (rd rs1 : RegIdx) (imm : BitVec 12) : Statement (.andi rd rs1 imm) :=
  mask_iWord imm rs1 0b111#3 rd opOpImm

theorem slli (rd rs1 : RegIdx) (shamt : BitVec 5) : Statement (.slli rd rs1 shamt) :=
  mask_rWord 0b0000000#7 shamt rs1 0b001#3 rd opOpImm

theorem srli (rd rs1 : RegIdx) (shamt : BitVec 5) : Statement (.srli rd rs1 shamt) :=
  mask_rWord 0b0000000#7 shamt rs1 0b101#3 rd opOpImm

theorem srai (rd rs1 : RegIdx) (shamt : BitVec 5) : Statement (.srai rd rs1 shamt) :=
  mask_rWord 0b0100000#7 shamt rs1 0b101#3 rd opOpImm

theorem add (rd rs1 rs2 : RegIdx) : Statement (.add rd rs1 rs2) :=
  mask_rWord 0b0000000#7 rs2 rs1 0b000#3 rd opOp

theorem sub (rd rs1 rs2 : RegIdx) : Statement (.sub rd rs1 rs2) :=
  mask_rWord 0b0100000#7 rs2 rs1 0b000#3 rd opOp

theorem sll (rd rs1 rs2 : RegIdx) : Statement (.sll rd rs1 rs2) :=
  mask_rWord 0b0000000#7 rs2 rs1 0b001#3 rd opOp

theorem slt (rd rs1 rs2 : RegIdx) : Statement (.slt rd rs1 rs2) :=
  mask_rWord 0b0000000#7 rs2 rs1 0b010#3 rd opOp

theorem sltu (rd rs1 rs2 : RegIdx) : Statement (.sltu rd rs1 rs2) :=
  mask_rWord 0b0000000#7 rs2 rs1 0b011#3 rd opOp

theorem xor (rd rs1 rs2 : RegIdx) : Statement (.xor rd rs1 rs2) :=
  mask_rWord 0b0000000#7 rs2 rs1 0b100#3 rd opOp

theorem srl (rd rs1 rs2 : RegIdx) : Statement (.srl rd rs1 rs2) :=
  mask_rWord 0b0000000#7 rs2 rs1 0b101#3 rd opOp

theorem sra (rd rs1 rs2 : RegIdx) : Statement (.sra rd rs1 rs2) :=
  mask_rWord 0b0100000#7 rs2 rs1 0b101#3 rd opOp

theorem or (rd rs1 rs2 : RegIdx) : Statement (.or rd rs1 rs2) :=
  mask_rWord 0b0000000#7 rs2 rs1 0b110#3 rd opOp

theorem and (rd rs1 rs2 : RegIdx) : Statement (.and rd rs1 rs2) :=
  mask_rWord 0b0000000#7 rs2 rs1 0b111#3 rd opOp

theorem csrrw (rd : RegIdx) (csr : CsrAddr) (rs1 : RegIdx) : Statement (.csrrw rd csr rs1) :=
  mask_iWord csr rs1 0b001#3 rd opSystem

theorem csrrs (rd : RegIdx) (csr : CsrAddr) (rs1 : RegIdx) : Statement (.csrrs rd csr rs1) :=
  mask_iWord csr rs1 0b010#3 rd opSystem

theorem csrrc (rd : RegIdx) (csr : CsrAddr) (rs1 : RegIdx) : Statement (.csrrc rd csr rs1) :=
  mask_iWord csr rs1 0b011#3 rd opSystem

theorem csrrwi (rd : RegIdx) (csr : CsrAddr) (uimm : BitVec 5) : Statement (.csrrwi rd csr uimm) :=
  mask_iWord csr uimm 0b101#3 rd opSystem

theorem csrrsi (rd : RegIdx) (csr : CsrAddr) (uimm : BitVec 5) : Statement (.csrrsi rd csr uimm) :=
  mask_iWord csr uimm 0b110#3 rd opSystem

theorem csrrci (rd : RegIdx) (csr : CsrAddr) (uimm : BitVec 5) : Statement (.csrrci rd csr uimm) :=
  mask_iWord csr uimm 0b111#3 rd opSystem

theorem mret : Statement (.mret) := rfl

theorem ecall : Statement (.ecall) := rfl

theorem ebreak : Statement (.ebreak) := rfl

theorem wfi : Statement (.wfi) := rfl

theorem sret : Statement (.sret) := rfl

theorem fence (fm pred succ : BitVec 4) (rs1 rd : RegIdx) : Statement (.fence fm pred succ rs1 rd) :=
  mask_fenceWord fm pred succ rs1 0b000#3 rd

theorem fenceI (fm pred succ : BitVec 4) (rs1 rd : RegIdx) : Statement (.fenceI fm pred succ rs1 rd) :=
  mask_fenceWord fm pred succ rs1 0b001#3 rd

end Sys2Proof.Laws.TableMatch
end

