-- ==== Sys2Proof/Laws/Results.lean ====
section
/-!
SUPPORT. From the shared operations to the words of Safety.lean: what a retirement, a store, a CSR access and an exception conclude.
-/
namespace Sys2Proof.Machine

open Sys2Proof

theorem writes_of_retireWriting {s : State} {i : Instr} {rd : RegIdx} {v next : Word} {target : Option Word}
    (h : exec i s = .next (s.retireWriting i rd v target)) (hn : target.getD (s.fetchAddress + 4) = next) : Writes s i rd v next := by
  refine ⟨_, h, ⟨fun r => ?_, ?_, rfl, rfl, rfl, rfl⟩, fun _ => rfl⟩
  · rw [State.reg_eq, State.retireWriting_regs, RegFile.read_write]; rfl
  · rw [State.fetchAddress_retireWriting, hn]

theorem goesTo_of_retire {s : State} {i : Instr} {next : Word} {target : Option Word}
    (h : exec i s = .next (s.retire i none target)) (hn : target.getD (s.fetchAddress + 4) = next) : GoesTo s i next := by
  refine ⟨_, h, ⟨fun _ => rfl, ?_, rfl, rfl, rfl, rfl⟩, fun _ => rfl⟩
  rw [State.fetchAddress_retire, hn]

/-- An exception whose vector table entry can be read is delivered (60_exceptions.md R412, R420 to R423). -/
theorem delivered_takeTrap {s : State} (stage : TrapStage) (e : Exn) (tval : Word) (hv : vectorReadable s (causeCode e) = true) :
    Delivered s (takeTrap stage (s.trapContext e tval) s) (acceptedAfter stage + 2) (causeCode e) tval := by
  rw [takeTrap_of_mapped stage (s.trapContext e tval) s hv]
  exact ⟨rfl, rfl, rfl, rfl, rfl, rfl, rfl, fun _ => rfl, fun _ => rfl, rfl⟩

theorem raises_of_takeTrap {s : State} {i : Instr} {stage : TrapStage} {e : Exn} {tval : Word}
    (h : exec i s = .next (takeTrap stage (s.trapContext e tval) s)) (hv : vectorReadable s (causeCode e) = true) :
    Raises s i (acceptedAfter stage + 2) (causeCode e) tval := ⟨_, h, delivered_takeTrap stage e tval hv⟩

/-- An exception whose vector table entry cannot be read is latched, and the next step is FATAL (60_exceptions.md R416, R428). -/
theorem undelivered_takeTrap {s : State} (stage : TrapStage) (e : Exn) (tval : Word) (hv : vectorReadable s (causeCode e) = false) :
    Undelivered s (takeTrap stage (s.trapContext e tval) s) (acceptedAfter stage) (causeCode e) tval := by
  rw [takeTrap_of_unmapped stage (s.trapContext e tval) s hv]
  exact ⟨⟨rfl, rfl, hv⟩, step_fatal ⟨rfl, rfl, hv⟩, rfl, rfl, rfl, rfl, rfl, rfl, rfl, fun _ => rfl, fun _ => rfl, rfl⟩

theorem strands_of_takeTrap {s : State} {i : Instr} {stage : TrapStage} {e : Exn} {tval : Word}
    (h : exec i s = .next (takeTrap stage (s.trapContext e tval) s)) (hv : vectorReadable s (causeCode e) = false) :
    Strands s i (acceptedAfter stage) (causeCode e) tval := ⟨_, h, undelivered_takeTrap stage e tval hv⟩

end Sys2Proof.Machine
end

