-- ==== Sys2Proof/Machine/Assembler.lean ====
section
/-!
DEFINITION. The pseudo-instructions and what they expand to (30_encoding.md R167; names of CSRs by R168 are `csrAddress`).
The five that expand to instructions not admitted (`fence`, `fence.i`, `ecall`, `ebreak`, `wfi`) are constructors of `Instr`.
Assembler text itself (R166) is not modelled: an `Instr` holds its operands in that order. The expansions are the spec's general knowledge (DEDUCED, log 15; decision D41).
-/
namespace Sys2Proof.Machine

open Sys2Proof

/-- The standard name of a general register (10_state.md R22); `x8` is also called `fp`. The hardware gives none a special role but `x0`. -/
def abiName (r : RegIdx) : String :=
  (["zero", "ra", "sp", "gp", "tp", "t0", "t1", "t2", "s0", "s1", "a0", "a1", "a2", "a3", "a4", "a5", "a6", "a7"]
    ++ ["s2", "s3", "s4", "s5", "s6", "s7", "s8", "s9", "s10", "s11", "t3", "t4", "t5", "t6"])[r.toNat]?.getD ""

/-- The pseudo-instructions of R167. -/
inductive Pseudo where
  | nop
  | mv (rd rs : RegIdx)
  | li (rd : RegIdx) (imm : Word)
  | not (rd rs : RegIdx)
  | neg (rd rs : RegIdx)
  | seqz (rd rs : RegIdx)
  | snez (rd rs : RegIdx)
  | sltz (rd rs : RegIdx)
  | sgtz (rd rs : RegIdx)
  | beqz (rs : RegIdx) (offset : BitVec 13)
  | bnez (rs : RegIdx) (offset : BitVec 13)
  | bgez (rs : RegIdx) (offset : BitVec 13)
  | bltz (rs : RegIdx) (offset : BitVec 13)
  | blez (rs : RegIdx) (offset : BitVec 13)
  | bgtz (rs : RegIdx) (offset : BitVec 13)
  | bgt (rs1 rs2 : RegIdx) (offset : BitVec 13)
  | ble (rs1 rs2 : RegIdx) (offset : BitVec 13)
  | bgtu (rs1 rs2 : RegIdx) (offset : BitVec 13)
  | bleu (rs1 rs2 : RegIdx) (offset : BitVec 13)
  | j (offset : BitVec 21)
  | jal (offset : BitVec 21)
  | jr (rs : RegIdx)
  | jalr (rs : RegIdx)
  | ret
  | call (offset : Word)
  | csrr (rd : RegIdx) (csr : Csr)
  | csrw (csr : Csr) (rs : RegIdx)
  | csrs (csr : Csr) (rs : RegIdx)
  | csrc (csr : Csr) (rs : RegIdx)
  | csrwi (csr : Csr) (uimm : BitVec 5)
  | csrsi (csr : Csr) (uimm : BitVec 5)
  | csrci (csr : Csr) (uimm : BitVec 5)
  | rdcycle (rd : RegIdx)
  | rdcycleh (rd : RegIdx)
  | rdtime (rd : RegIdx)
  | rdtimeh (rd : RegIdx)
  | rdinstret (rd : RegIdx)
  | rdinstreth (rd : RegIdx)
deriving DecidableEq, Repr

/-- `hi20 = (imm + 0x800) >> 12`, and the low twelve bits beside it. -/
def hi20 (imm : Word) : BitVec 20 := (imm + 0x800#32).extractLsb' 12 20
def lo12 (imm : Word) : BitVec 12 := imm.extractLsb' 0 12

/-- The value fits 12 signed bits. -/
def fitsImm12 (imm : Word) : Bool := imm12 (lo12 imm) == imm

/-- The instructions a pseudo-instruction stands for (R167). -/
def Pseudo.expand : Pseudo → List Instr
  | .nop => [.addi 0 0 0]
  | .mv rd rs => [.addi rd rs 0]
  | .li rd imm => if fitsImm12 imm then [.addi rd 0 (lo12 imm)] else [.lui rd (hi20 imm), .addi rd rd (lo12 imm)]
  | .not rd rs => [.xori rd rs (-1)]
  | .neg rd rs => [.sub rd 0 rs]
  | .seqz rd rs => [.sltiu rd rs 1]
  | .snez rd rs => [.sltu rd 0 rs]
  | .sltz rd rs => [.slt rd rs 0]
  | .sgtz rd rs => [.slt rd 0 rs]
  | .beqz rs offset => [.beq rs 0 offset]
  | .bnez rs offset => [.bne rs 0 offset]
  | .bgez rs offset => [.bge rs 0 offset]
  | .bltz rs offset => [.blt rs 0 offset]
  | .blez rs offset => [.bge 0 rs offset]
  | .bgtz rs offset => [.blt 0 rs offset]
  | .bgt rs1 rs2 offset => [.blt rs2 rs1 offset]
  | .ble rs1 rs2 offset => [.bge rs2 rs1 offset]
  | .bgtu rs1 rs2 offset => [.bltu rs2 rs1 offset]
  | .bleu rs1 rs2 offset => [.bgeu rs2 rs1 offset]
  | .j offset => [.jal 0 offset]
  | .jal offset => [.jal 1 offset]
  | .jr rs => [.jalr 0 rs 0]
  | .jalr rs => [.jalr 1 rs 0]
  | .ret => [.jalr 0 1 0]
  | .call offset => [.auipc 1 (hi20 offset), .jalr 1 1 (lo12 offset)]
  | .csrr rd csr => [.csrrs rd (csrAddress csr) 0]
  | .csrw csr rs => [.csrrw 0 (csrAddress csr) rs]
  | .csrs csr rs => [.csrrs 0 (csrAddress csr) rs]
  | .csrc csr rs => [.csrrc 0 (csrAddress csr) rs]
  | .csrwi csr uimm => [.csrrwi 0 (csrAddress csr) uimm]
  | .csrsi csr uimm => [.csrrsi 0 (csrAddress csr) uimm]
  | .csrci csr uimm => [.csrrci 0 (csrAddress csr) uimm]
  | .rdcycle rd => [.csrrs rd (csrAddress .cycle) 0]
  | .rdcycleh rd => [.csrrs rd (csrAddress .cycleh) 0]
  | .rdtime rd => [.csrrs rd (csrAddress .time) 0]
  | .rdtimeh rd => [.csrrs rd (csrAddress .timeh) 0]
  | .rdinstret rd => [.csrrs rd (csrAddress .instret) 0]
  | .rdinstreth rd => [.csrrs rd (csrAddress .instreth) 0]

end Sys2Proof.Machine
end

