-- ==== Sys2Proof/Tests/Slice0.lean ====
section
/-!
SUPPORT. The model's own tests: ill-formed terms refused, words written out bit by bit from 30_encoding.md, single steps on the vectors of
95_test_vectors.md, the two levels side by side, and for every statement with hypotheses a state and operands that meet them.
-/
namespace Sys2Proof.Tests

open Sys2Proof Sys2Proof.Machine

/-! ## Helpers -/

/-- Reset, with the next fetch at `pc`, `word` stored there, and registers and memory words set. -/
def start (pc word : Nat) (regs : List (Nat × Nat)) (words : List (Nat × Nat)) : State :=
  let s := State.reset
  let s := { s with ifBank := { s.ifBank with pcPlus4 := BitVec.ofNat 32 pc } }
  let s := { s with regs := regs.foldl (fun (f : RegFile) (p : Nat × Nat) => RegFile.write f (BitVec.ofNat 5 p.1) (BitVec.ofNat 32 p.2)) s.regs }
  let s := { s with mem := words.foldl (fun (m : Memory) (p : Nat × Nat) => m.writeWord p.1 (BitVec.ofNat 32 p.2)) s.mem }
  { s with mem := s.mem.writeWord (homeWord s.cfg s.fetchAddress) (BitVec.ofNat 32 word) }

/-- The vector table of 95_test_vectors.md for `mtvec = 0x20000000`: the handler of cause `c` at `0x10000100 + 0x10 c`. -/
def withTable (s : State) : State :=
  { s with
    csr := { s.csr with mtvec := 0x20000000#32 }
    mem := [0, 1, 2, 3, 4, 5, 6, 7].foldl (fun m c => m.writeWord (0x20000030 + 4 * c) (BitVec.ofNat 32 (0x10000100 + 0x10 * c))) s.mem }

def answers (r : Result) (p : State → Bool) : Bool :=
  match r with
  | .next t => p t
  | .fault _ => false
  | .refused _ => false

theorem next_of_answers {r : Result} {p : State → Bool} (h : answers r p = true) : ∃ t, r = .next t ∧ p t = true := by
  cases r with
  | next t => exact ⟨t, rfl, h⟩
  | fault f => cases h
  | refused f => cases h

/-- Two answers are one and the same next state. -/
def agree (a b : Result) : Bool :=
  match a, b with
  | .next s, .next t => decide (s = t)
  | _, _ => false

def isFatal (r : Result) : Bool :=
  match r with
  | .fault .fatalVectorRead => true
  | _ => false

/-- The state `n` cycles on. -/
def after (n : Nat) (s : State) : State :=
  match runCycles n s with
  | .next t => t
  | .fault _ => s
  | .refused _ => s

def slotIs (s : State) (slot : Slot) : Bool :=
  decide (s.orch = ⟨.pipeline, slot⟩) && !s.memBank.trap && !s.deBank.trap && !s.deBank.mret

theorem inSlot_of {s : State} {slot : Slot} (h : slotIs s slot = true) : s.inSlot slot := by
  simpa [slotIs, State.inSlot, State.quiet, and_assoc] using h

/-! ## WellFormed: each check refuses a term -/

theorem test_wf_jal : (Instr.jal 1 3).wf = false ∧ (Instr.jal 1 2).wf = true := by decide
theorem test_wf_beq : (Instr.beq 1 2 1).wf = false ∧ (Instr.beq 1 2 4094).wf = true := by decide
theorem test_wf_bne : (Instr.bne 1 2 5).wf = false := by decide
theorem test_wf_blt : (Instr.blt 1 2 7).wf = false := by decide
theorem test_wf_bge : (Instr.bge 1 2 (-1)).wf = false := by decide
theorem test_wf_bltu : (Instr.bltu 1 2 4095).wf = false := by decide
theorem test_wf_bgeu : (Instr.bgeu 1 2 9).wf = false := by decide
/-- Sizes of 2 and 2^29 bytes are not admissible, 4 and 2^28 are (00_scope.md R10). -/
theorem test_wf_config :
    (⟨1, 22, 0⟩ : Config).wf = false ∧ (⟨29, 22, 0⟩ : Config).wf = false ∧ (⟨20, 1, 0⟩ : Config).wf = false ∧ (⟨20, 29, 0⟩ : Config).wf = false
    ∧ (⟨2, 28, 0⟩ : Config).wf = true := by decide

/-! ## Decoding: every constructor, its word written out from 30_encoding.md -/

/-- R132 U-type, R142. -/
theorem test_decode_upper :
    decode 0b00010010001101000101_00101_0110111#32 = .ok (.lui 5 0x12345)
    ∧ decode 0b10000000000000000001_11111_0010111#32 = .ok (.auipc 31 0x80001) := by decide

/-- R137: bits 20, 10 to 1, 11, 19 to 12; R156 for JALR. -/
theorem test_decode_jumps :
    decode 0b0_0000000000_1_00000000_00001_1101111#32 = .ok (.jal 1 0x800)
    ∧ decode 0b1_1111111100_1_11111111_00000_1101111#32 = .ok (.jal 0 (-8))
    ∧ decode 0b000000000100_00101_000_00001_1100111#32 = .ok (.jalr 1 5 4) := by decide

/-- R135: bits 12, 10 to 5, then 4 to 1, 11; R153. -/
theorem test_decode_branches :
    decode 0b0_000000_00010_00001_000_0100_0_1100011#32 = .ok (.beq 1 2 8)
    ∧ decode 0b1_111111_00000_00001_001_1100_1_1100011#32 = .ok (.bne 1 0 (-8))
    ∧ decode 0b0_000000_00010_00001_100_0000_1_1100011#32 = .ok (.blt 1 2 0x800)
    ∧ decode 0b0_100000_00010_00001_101_0000_0_1100011#32 = .ok (.bge 1 2 0x400)
    ∧ decode 0b0_000001_00010_00001_110_0000_0_1100011#32 = .ok (.bltu 1 2 0x20)
    ∧ decode 0b0_000000_00010_00001_111_0001_0_1100011#32 = .ok (.bgeu 1 2 2) := by decide

/-- R154. -/
theorem test_decode_loads :
    decode 0b000000000011_00001_000_00100_0000011#32 = .ok (.lb 4 1 3)
    ∧ decode 0b000000000010_00001_001_00110_0000011#32 = .ok (.lh 6 1 2)
    ∧ decode 0b111111111100_00001_010_00111_0000011#32 = .ok (.lw 7 1 (-4))
    ∧ decode 0b000000000001_00001_100_00011_0000011#32 = .ok (.lbu 3 1 1)
    ∧ decode 0b000000000010_00001_101_00101_0000011#32 = .ok (.lhu 5 1 2) := by decide

/-- R134: bits 11 to 5, then 4 to 0; R155. -/
theorem test_decode_stores :
    decode 0b0000000_00000_00001_000_00011_0100011#32 = .ok (.sb 0 1 3)
    ∧ decode 0b1111111_00010_00001_001_11110_0100011#32 = .ok (.sh 2 1 (-2))
    ∧ decode 0b0000010_00010_00001_010_00100_0100011#32 = .ok (.sw 2 1 68) := by decide

/-- R151; bit 30 of an ADDI immediate is an immediate bit. -/
theorem test_decode_op_imm :
    decode 0b010000000000_00001_000_00011_0010011#32 = .ok (.addi 3 1 0x400)
    ∧ decode 0b000000000101_00001_010_00011_0010011#32 = .ok (.slti 3 1 5)
    ∧ decode 0b111111111111_00001_011_00011_0010011#32 = .ok (.sltiu 3 1 (-1))
    ∧ decode 0b111111111111_00001_100_00011_0010011#32 = .ok (.xori 3 1 (-1))
    ∧ decode 0b000011110000_00001_110_00011_0010011#32 = .ok (.ori 3 1 0x0F0)
    ∧ decode 0b000011111111_00001_111_00011_0010011#32 = .ok (.andi 3 1 0x0FF)
    ∧ decode 0b0000000_11111_00001_001_00011_0010011#32 = .ok (.slli 3 1 31)
    ∧ decode 0b0000000_00100_00001_101_00011_0010011#32 = .ok (.srli 3 1 4)
    ∧ decode 0b0100000_00100_00001_101_00011_0010011#32 = .ok (.srai 3 1 4) := by decide

/-- R152. -/
theorem test_decode_op :
    decode 0b0000000_00010_00001_000_00011_0110011#32 = .ok (.add 3 1 2)
    ∧ decode 0b0100000_00010_00001_000_00011_0110011#32 = .ok (.sub 3 1 2)
    ∧ decode 0b0000000_00010_00001_001_00011_0110011#32 = .ok (.sll 3 1 2)
    ∧ decode 0b0000000_00010_00001_010_00011_0110011#32 = .ok (.slt 3 1 2)
    ∧ decode 0b0000000_00010_00001_011_00011_0110011#32 = .ok (.sltu 3 1 2)
    ∧ decode 0b0000000_00010_00001_100_00011_0110011#32 = .ok (.xor 3 1 2)
    ∧ decode 0b0000000_00010_00001_101_00011_0110011#32 = .ok (.srl 3 1 2)
    ∧ decode 0b0100000_00010_00001_101_00011_0110011#32 = .ok (.sra 3 1 2)
    ∧ decode 0b0000000_00010_00001_110_00011_0110011#32 = .ok (.or 3 1 2)
    ∧ decode 0b0000000_00010_00001_111_00011_0110011#32 = .ok (.and 3 1 2) := by decide

/-- R156; the CSR address is inst[31:20]. -/
theorem test_decode_system :
    decode 0b001101000000_00001_001_00011_1110011#32 = .ok (.csrrw 3 0x340 1)
    ∧ decode 0b001101000010_00000_010_00101_1110011#32 = .ok (.csrrs 5 0x342 0)
    ∧ decode 0b001101000000_00001_011_00011_1110011#32 = .ok (.csrrc 3 0x340 1)
    ∧ decode 0b001101000000_00101_101_00011_1110011#32 = .ok (.csrrwi 3 0x340 5)
    ∧ decode 0b111100010100_00001_110_00011_1110011#32 = .ok (.csrrsi 3 0xF14 1)
    ∧ decode 0b001101000000_11111_111_00011_1110011#32 = .ok (.csrrci 3 0x340 31)
    ∧ decode 0b0011000_00010_00000_000_00000_1110011#32 = .ok .mret := by decide

/-- R160, R380 to R383: the rows the hardware does not admit have names, and are not legal. -/
theorem test_decode_unadmitted :
    decode 0b000000000000_00000_000_00000_1110011#32 = .ok .ecall
    ∧ decode 0b000000000001_00000_000_00000_1110011#32 = .ok .ebreak
    ∧ decode 0b0001000_00101_00000_000_00000_1110011#32 = .ok .wfi
    ∧ decode 0b0001000_00010_00000_000_00000_1110011#32 = .ok .sret
    ∧ decode 0b0000_1111_1111_00000_000_00000_0001111#32 = .ok (.fence 0 15 15 0 0)
    ∧ decode 0b0000_0000_0000_00000_001_00000_0001111#32 = .ok (.fenceI 0 0 0 0 0)
    ∧ legal 0x00000073#32 = false
    ∧ legal 0x0FF0000F#32 = false := by decide

/-- R158, R162, R163: reserved encodings, each by its reason. -/
theorem test_decode_refuses :
    decode 0x00000000#32 = .error (.unknownOpcode 0)
    ∧ decode 0xFFFFFFFF#32 = .error (.unknownOpcode 0x7F)
    ∧ decode 0b000000000000_00001_001_00001_1100111#32 = .error (.reservedFunct3 0b1100111 1)
    ∧ decode 0b0_000000_00010_00001_010_0100_0_1100011#32 = .error (.reservedFunct3 0b1100011 2)
    ∧ decode 0b000000000000_00001_110_00011_0000011#32 = .error (.reservedFunct3 0b0000011 6)
    ∧ decode 0b0000000_00010_00001_011_00000_0100011#32 = .error (.reservedFunct3 0b0100011 3)
    ∧ decode 0x40109193#32 = .error (.reservedFunct7 0b0010011 1 0b0100000)
    ∧ decode 0x022081B3#32 = .error (.reservedFunct7 0b0110011 0 0b0000001)
    ∧ decode 0b001101000000_00001_100_00011_1110011#32 = .error (.reservedFunct3 0b1110011 4)
    ∧ decode 0x302000F3#32 = .error (.reservedSystem 0x302000F3) := by decide

/-- The host's way in: the word of a table row, and one that is no row; bytes in address order (20_memory.md R90). -/
theorem test_decodeTableWord :
    decodeTableWord 32 0x00108193 = some (.addi 3 1 1)
    ∧ decodeTableWord 32 0x022081B3 = none
    ∧ decodeBytes [0x00, 0x10, 0x81, 0x93, 0xAA] = .ok (.addi 3 1 1, [0xAA])
    ∧ decodeBytes [0x00, 0x10, 0x81] = .error .truncated := by decide

/-! ## Single steps: vectors of 95_test_vectors.md, one or two an instruction -/

/-- V10: `lui x5, 0x12345`. -/
theorem test_step_lui :
    answers (step (start 0x10000000 0x123452b7 [] [])) (fun t => t.reg 5 == 0x12345000#32 && t.fetchAddress == 0x10000004#32) = true := by decide

/-- V11: `auipc x5, 0x1`. -/
theorem test_step_auipc :
    answers (step (start 0x10000000 0x00001297 [] [])) (fun t => t.reg 5 == 0x10001000#32 && t.fetchAddress == 0x10000004#32) = true := by decide

/-- V13: `addi x3, x1, 1`. -/
theorem test_step_addi :
    answers (step (start 0x10000000 0x00108193 [(1, 0x7FFFFFFF)] [])) (fun t => t.reg 3 == 0x80000000#32 && t.fetchAddress == 0x10000004#32) = true := by decide

/-- V32: `addi x0, x1, 1 (x0 guard)`. -/
theorem test_step_addi_v32 :
    answers (step (start 0x10000000 0x00108013 [(1, 0x00000005)] [])) (fun t => t.fetchAddress == 0x10000004#32) = true := by decide

/-- V14: `slti x3, x1, 5`. -/
theorem test_step_slti :
    answers (step (start 0x10000000 0x0050a193 [(1, 0xFFFFFFFF)] [])) (fun t => t.reg 3 == 0x00000001#32 && t.fetchAddress == 0x10000004#32) = true := by decide

/-- V15: `sltiu x3, x1, -1`. -/
theorem test_step_sltiu :
    answers (step (start 0x10000000 0xfff0b193 [(1, 0x00000005)] [])) (fun t => t.reg 3 == 0x00000001#32 && t.fetchAddress == 0x10000004#32) = true := by decide

/-- V16: `xori x3, x1, -1`. -/
theorem test_step_xori :
    answers (step (start 0x10000000 0xfff0c193 [(1, 0x0F0F0F0F)] [])) (fun t => t.reg 3 == 0xF0F0F0F0#32 && t.fetchAddress == 0x10000004#32) = true := by decide

/-- V17: `ori x3, x1, 0x0f0`. -/
theorem test_step_ori :
    answers (step (start 0x10000000 0x0f00e193 [(1, 0x00000F0F)] [])) (fun t => t.reg 3 == 0x00000FFF#32 && t.fetchAddress == 0x10000004#32) = true := by decide

/-- V18: `andi x3, x1, 0x0ff`. -/
theorem test_step_andi :
    answers (step (start 0x10000000 0x0ff0f193 [(1, 0x12345678)] [])) (fun t => t.reg 3 == 0x00000078#32 && t.fetchAddress == 0x10000004#32) = true := by decide

/-- V19: `slli x3, x1, 4`. -/
theorem test_step_slli :
    answers (step (start 0x10000000 0x00409193 [(1, 0xF000000F)] [])) (fun t => t.reg 3 == 0x000000F0#32 && t.fetchAddress == 0x10000004#32) = true := by decide

/-- V20: `srli x3, x1, 4`. -/
theorem test_step_srli :
    answers (step (start 0x10000000 0x0040d193 [(1, 0xF000000F)] [])) (fun t => t.reg 3 == 0x0F000000#32 && t.fetchAddress == 0x10000004#32) = true := by decide

/-- V21: `srai x3, x1, 4`. -/
theorem test_step_srai :
    answers (step (start 0x10000000 0x4040d193 [(1, 0xF000000F)] [])) (fun t => t.reg 3 == 0xFF000000#32 && t.fetchAddress == 0x10000004#32) = true := by decide

/-- V22: `add x3, x1, x2`. -/
theorem test_step_add :
    answers (step (start 0x10000000 0x002081b3 [(1, 0xFFFFFFFF), (2, 0x00000002)] [])) (fun t => t.reg 3 == 0x00000001#32 && t.fetchAddress == 0x10000004#32) = true := by decide

/-- V23: `sub x3, x1, x2`. -/
theorem test_step_sub :
    answers (step (start 0x10000000 0x402081b3 [(1, 0x00000000), (2, 0x00000001)] [])) (fun t => t.reg 3 == 0xFFFFFFFF#32 && t.fetchAddress == 0x10000004#32) = true := by decide

/-- V24: `sll x3, x1, x2`. -/
theorem test_step_sll :
    answers (step (start 0x10000000 0x002091b3 [(1, 0x00000001), (2, 0x00000025)] [])) (fun t => t.reg 3 == 0x00000020#32 && t.fetchAddress == 0x10000004#32) = true := by decide

/-- V25: `slt x3, x1, x2`. -/
theorem test_step_slt :
    answers (step (start 0x10000000 0x0020a1b3 [(1, 0x80000000), (2, 0x7FFFFFFF)] [])) (fun t => t.reg 3 == 0x00000001#32 && t.fetchAddress == 0x10000004#32) = true := by decide

/-- V26: `sltu x3, x1, x2`. -/
theorem test_step_sltu :
    answers (step (start 0x10000000 0x0020b1b3 [(1, 0x80000000), (2, 0x7FFFFFFF), (3, 0xAAAAAAAA)] [])) (fun t => t.reg 3 == 0x00000000#32 && t.fetchAddress == 0x10000004#32) = true := by decide

/-- V27: `xor x3, x1, x2`. -/
theorem test_step_xor :
    answers (step (start 0x10000000 0x0020c1b3 [(1, 0xFF00FF00), (2, 0x0FF00FF0)] [])) (fun t => t.reg 3 == 0xF0F0F0F0#32 && t.fetchAddress == 0x10000004#32) = true := by decide

/-- V28: `srl x3, x1, x2`. -/
theorem test_step_srl :
    answers (step (start 0x10000000 0x0020d1b3 [(1, 0x80000000), (2, 0x0000001F)] [])) (fun t => t.reg 3 == 0x00000001#32 && t.fetchAddress == 0x10000004#32) = true := by decide

/-- V29: `sra x3, x1, x2`. -/
theorem test_step_sra :
    answers (step (start 0x10000000 0x4020d1b3 [(1, 0x80000000), (2, 0x0000001F)] [])) (fun t => t.reg 3 == 0xFFFFFFFF#32 && t.fetchAddress == 0x10000004#32) = true := by decide

/-- V30: `or x3, x1, x2`. -/
theorem test_step_or :
    answers (step (start 0x10000000 0x0020e1b3 [(1, 0xFF00FF00), (2, 0x0FF00FF0)] [])) (fun t => t.reg 3 == 0xFFF0FFF0#32 && t.fetchAddress == 0x10000004#32) = true := by decide

/-- V31: `and x3, x1, x2`. -/
theorem test_step_and :
    answers (step (start 0x10000000 0x0020f1b3 [(1, 0xFF00FF00), (2, 0x0FF00FF0)] [])) (fun t => t.reg 3 == 0x0F000F00#32 && t.fetchAddress == 0x10000004#32) = true := by decide

/-- V42: `jal x0, -8`. -/
theorem test_step_jal :
    answers (step (start 0x10000010 0xff9ff06f [] [])) (fun t => t.fetchAddress == 0x10000008#32) = true := by decide

/-- V45: `jalr x1, 0(x1) (rd = rs1)`. -/
theorem test_step_jalr :
    answers (step (start 0x10000000 0x000080e7 [(1, 0x10000020)] [])) (fun t => t.reg 1 == 0x10000004#32 && t.fetchAddress == 0x10000020#32) = true := by decide

/-- V119: `jalr x1, 2(x5) (misaligned target)`. -/
theorem test_step_jalr_v119 :
    answers (step (withTable (start 0x10000000 0x002280e7 [(5, 0x10000100)] []))) (fun t => t.reg 1 == 0x10000004#32 && t.csr.instret == 1#64 && t.fetchAddress == 0x10000102#32 && t.csr.cycles == 5#64) = true := by decide

/-- V46: `beq x1, x2, 8 (taken)`. -/
theorem test_step_beq :
    answers (step (start 0x10000000 0x00208463 [(1, 0x00000005), (2, 0x00000005)] [])) (fun t => t.fetchAddress == 0x10000008#32) = true := by decide

/-- V47: `beq x1, x2, 8 (not taken)`. -/
theorem test_step_beq_v47 :
    answers (step (start 0x10000000 0x00208463 [(1, 0x00000005), (2, 0x00000006)] [])) (fun t => t.fetchAddress == 0x10000004#32) = true := by decide

/-- V48: `bne x1, x0, -8 (taken)`. -/
theorem test_step_bne :
    answers (step (start 0x10000010 0xfe009ce3 [(1, 0x00000003)] [])) (fun t => t.fetchAddress == 0x10000008#32) = true := by decide

/-- V49: `bne x1, x0, -8 (not taken)`. -/
theorem test_step_bne_v49 :
    answers (step (start 0x10000010 0xfe009ce3 [(1, 0x00000000)] [])) (fun t => t.fetchAddress == 0x10000014#32) = true := by decide

/-- V50: `blt x1, x2, 8`. -/
theorem test_step_blt :
    answers (step (start 0x10000000 0x0020c463 [(1, 0xFFFFFFFF), (2, 0x00000000)] [])) (fun t => t.fetchAddress == 0x10000008#32) = true := by decide

/-- V51: `bge x1, x2, 8`. -/
theorem test_step_bge :
    answers (step (start 0x10000000 0x0020d463 [(1, 0xFFFFFFFF), (2, 0x00000000)] [])) (fun t => t.fetchAddress == 0x10000004#32) = true := by decide

/-- V54: `bge x1, x2, 8 (equal)`. -/
theorem test_step_bge_v54 :
    answers (step (start 0x10000000 0x0020d463 [(1, 0x00000007), (2, 0x00000007)] [])) (fun t => t.fetchAddress == 0x10000008#32) = true := by decide

/-- V52: `bltu x1, x2, 8`. -/
theorem test_step_bltu :
    answers (step (start 0x10000000 0x0020e463 [(1, 0xFFFFFFFF), (2, 0x00000000)] [])) (fun t => t.fetchAddress == 0x10000004#32) = true := by decide

/-- V53: `bgeu x1, x2, 8`. -/
theorem test_step_bgeu :
    answers (step (start 0x10000000 0x0020f463 [(1, 0xFFFFFFFF), (2, 0x00000000)] [])) (fun t => t.fetchAddress == 0x10000008#32) = true := by decide

/-- V61: `lb x4, 3(x1)`. -/
theorem test_step_lb :
    answers (step (start 0x10000000 0x00308203 [(1, 0x20000000)] [(0x20000000, 0xDEADBEEF)])) (fun t => t.reg 4 == 0xFFFFFFEF#32 && t.fetchAddress == 0x10000004#32) = true := by decide

/-- V64: `lh x6, 2(x1)`. -/
theorem test_step_lh :
    answers (step (start 0x10000000 0x00209303 [(1, 0x20000000)] [(0x20000000, 0xDEADBEEF)])) (fun t => t.reg 6 == 0xFFFFBEEF#32 && t.fetchAddress == 0x10000004#32) = true := by decide

/-- V101: `lh x3, 1(x1)`. -/
theorem test_step_lh_v101 :
    answers (step (withTable (start 0x10000000 0x00109183 [(1, 0x20000000), (3, 0xAAAAAAAA)] [(0x20000000, 0xDEADBEEF)]))) (fun t => t.reg 3 == 0xAAAAAAAA#32 && t.csr.mepc == 0x10000004#32 && t.csr.mcause == 0x00000004#32 && t.csr.mtval == 0x00109183#32 && t.fetchAddress == 0x10000140#32 && t.csr.cycles == 7#64) = true := by decide

/-- V77: `lw x7, 0(x1) (RAM mirror, RAM_SIZE = 4 MiB)`. -/
theorem test_step_lw :
    answers (step (start 0x10000000 0x0000a383 [(1, 0x20400000)] [(0x20000000, 0xDEADBEEF)])) (fun t => t.reg 7 == 0xDEADBEEF#32 && t.fetchAddress == 0x10000004#32) = true := by decide

/-- V106: `lw x3, 1(x1) (misaligned and unmapped)`. -/
theorem test_step_lw_v106 :
    answers (step (withTable (start 0x10000000 0x0010a183 [(1, 0x30000000)] []))) (fun t => t.reg 1 == 0x30000000#32 && t.csr.mepc == 0x10000004#32 && t.csr.mcause == 0x00000004#32 && t.csr.mtval == 0x0010A183#32 && t.fetchAddress == 0x10000140#32 && t.csr.cycles == 7#64) = true := by decide

/-- V63: `lbu x3, 1(x1)`. -/
theorem test_step_lbu :
    answers (step (start 0x10000000 0x0010c183 [(1, 0x20000000)] [(0x20000000, 0xDEADBEEF)])) (fun t => t.reg 3 == 0x000000AD#32 && t.fetchAddress == 0x10000004#32) = true := by decide

/-- V66: `lhu x5, 2(x1)`. -/
theorem test_step_lhu :
    answers (step (start 0x10000000 0x0020d283 [(1, 0x20000000)] [(0x20000000, 0xDEADBEEF)])) (fun t => t.reg 5 == 0x0000BEEF#32 && t.fetchAddress == 0x10000004#32) = true := by decide

/-- V71: `sb x2, 0(x1)`. -/
theorem test_step_sb :
    answers (step (start 0x10000000 0x00208023 [(1, 0x20000000), (2, 0x12345678)] [(0x20000000, 0xDEADBEEF)])) (fun t => t.wordAt 0x20000000#32 == 0x78ADBEEF#32 && t.fetchAddress == 0x10000004#32) = true := by decide

/-- V105: `sb x2, 0(x1) (unmapped)`. -/
theorem test_step_sb_v105 :
    answers (step (withTable (start 0x10000000 0x00208023 [(1, 0x00000000), (2, 0x00000055)] []))) (fun t => t.reg 2 == 0x00000055#32 && t.csr.mepc == 0x10000004#32 && t.csr.mcause == 0x00000007#32 && t.csr.mtval == 0x00208023#32 && t.fetchAddress == 0x10000170#32 && t.csr.cycles == 7#64) = true := by decide

/-- V73: `sh x2, 2(x1)`. -/
theorem test_step_sh :
    answers (step (start 0x10000000 0x00209123 [(1, 0x20000000), (2, 0x12345678)] [(0x20000000, 0xDEADBEEF)])) (fun t => t.wordAt 0x20000000#32 == 0xDEAD5678#32 && t.fetchAddress == 0x10000004#32) = true := by decide

/-- V104: `sh x2, 1(x1)`. -/
theorem test_step_sh_v104 :
    answers (step (withTable (start 0x10000000 0x002090a3 [(1, 0x20000000), (2, 0x55555555)] [(0x20000000, 0xDEADBEEF)]))) (fun t => t.reg 2 == 0x55555555#32 && t.csr.mepc == 0x10000004#32 && t.csr.mcause == 0x00000006#32 && t.csr.mtval == 0x002090A3#32 && t.fetchAddress == 0x10000160#32 && t.csr.cycles == 7#64) = true := by decide

/-- V76: `sw x2, 0(x1) (store to ROM, ignored)`. -/
theorem test_step_sw :
    answers (step (start 0x10000000 0x0020a023 [(1, 0x10000000), (2, 0xCAFEF00D)] [])) (fun t => t.fetchAddress == 0x10000004#32) = true := by decide

/-- V103: `sw x2, 2(x1)`. -/
theorem test_step_sw_v103 :
    answers (step (withTable (start 0x10000000 0x0020a123 [(1, 0x20000000), (2, 0x55555555)] [(0x20000000, 0xDEADBEEF)]))) (fun t => t.reg 2 == 0x55555555#32 && t.csr.mepc == 0x10000004#32 && t.csr.mcause == 0x00000006#32 && t.csr.mtval == 0x0020A123#32 && t.fetchAddress == 0x10000160#32 && t.csr.cycles == 7#64) = true := by decide

/-- V89: `csrrw x0, mstatus, x1 (mask 0x88)`. -/
theorem test_step_csrrw :
    answers (step (start 0x10000000 0x30009073 [(1, 0xFFFFFFFF)] [])) (fun t => t.csr.mstatus == 0x00000088#32 && t.csr.instret == 1#64 && t.fetchAddress == 0x10000004#32) = true := by decide

/-- V116: `csrrw x3, cycle, x1 (read-only)`. -/
theorem test_step_csrrw_v116 :
    answers (step (withTable (start 0x10000000 0xc00091f3 [(1, 0x00000001), (3, 0xAAAAAAAA)] []))) (fun t => t.reg 3 == 0xAAAAAAAA#32 && t.csr.mepc == 0x10000004#32 && t.csr.mcause == 0x00000002#32 && t.csr.mtval == 0xC00091F3#32 && t.fetchAddress == 0x10000120#32 && t.csr.cycles == 7#64) = true := by decide

/-- V81: `csrrs x3, mscratch, x1`. -/
theorem test_step_csrrs :
    let s := (start 0x10000000 0x3400a1f3 [(1, 0x00000F0F)] [])
    answers (step { s with csr := { s.csr with mscratch := 0x0000F0F0#32 } }) (fun t => t.reg 3 == 0x0000F0F0#32 && t.csr.mscratch == 0x0000FFFF#32 && t.csr.instret == 1#64 && t.fetchAddress == 0x10000004#32) = true := by decide

/-- V87: `csrrs x3, cycle, x0`. -/
theorem test_step_csrrs_v87 :
    answers (step (start 0x10000000 0xc00021f3 [] [])) (fun t => t.reg 3 == 0x00000003#32 && t.csr.instret == 1#64 && t.fetchAddress == 0x10000004#32) = true := by decide

/-- V82: `csrrc x3, mscratch, x1`. -/
theorem test_step_csrrc :
    let s := (start 0x10000000 0x3400b1f3 [(1, 0x00000F0F)] [])
    answers (step { s with csr := { s.csr with mscratch := 0x0000FFFF#32 } }) (fun t => t.reg 3 == 0x0000FFFF#32 && t.csr.mscratch == 0x0000F0F0#32 && t.csr.instret == 1#64 && t.fetchAddress == 0x10000004#32) = true := by decide

/-- V83: `csrrwi x3, mscratch, 5`. -/
theorem test_step_csrrwi :
    let s := (start 0x10000000 0x3402d1f3 [] [])
    answers (step { s with csr := { s.csr with mscratch := 0x0000FFFF#32 } }) (fun t => t.reg 3 == 0x0000FFFF#32 && t.csr.mscratch == 0x00000005#32 && t.csr.instret == 1#64 && t.fetchAddress == 0x10000004#32) = true := by decide

/-- V84: `csrrsi x3, mscratch, 5`. -/
theorem test_step_csrrsi :
    let s := (start 0x10000000 0x3402e1f3 [] [])
    answers (step { s with csr := { s.csr with mscratch := 0x00000010#32 } }) (fun t => t.reg 3 == 0x00000010#32 && t.csr.mscratch == 0x00000015#32 && t.csr.instret == 1#64 && t.fetchAddress == 0x10000004#32) = true := by decide

/-- V117: `csrrsi x3, mhartid, 1 (read-only)`. -/
theorem test_step_csrrsi_v117 :
    answers (step (withTable (start 0x10000000 0xf140e1f3 [(3, 0xAAAAAAAA)] []))) (fun t => t.reg 3 == 0xAAAAAAAA#32 && t.csr.mepc == 0x10000004#32 && t.csr.mcause == 0x00000002#32 && t.csr.mtval == 0xF140E1F3#32 && t.fetchAddress == 0x10000120#32 && t.csr.cycles == 7#64) = true := by decide

/-- V85: `csrrci x3, mscratch, 5`. -/
theorem test_step_csrrci :
    let s := (start 0x10000000 0x3402f1f3 [] [])
    answers (step { s with csr := { s.csr with mscratch := 0x00000015#32 } }) (fun t => t.reg 3 == 0x00000015#32 && t.csr.mscratch == 0x00000010#32 && t.csr.instret == 1#64 && t.fetchAddress == 0x10000004#32) = true := by decide

/-- V121: `mret`. -/
theorem test_step_mret :
    let s := (withTable (start 0x10000020 0x30200073 [] []))
    answers (step { s with csr := { s.csr with mepc := 0x10000020#32, mstatus := 0x00000080#32 } }) (fun t => t.fetchAddress == 0x10000020#32 && t.csr.cycles == 5#64) = true := by decide

/-- V109: `ecall`. -/
theorem test_step_ecall :
    answers (step (withTable (start 0x10000000 0x00000073 [] []))) (fun t => t.csr.mepc == 0x10000004#32 && t.csr.mcause == 0x00000002#32 && t.csr.mtval == 0x00000073#32 && t.fetchAddress == 0x10000120#32 && t.csr.cycles == 5#64) = true := by decide

/-- V110: `ebreak`. -/
theorem test_step_ebreak :
    answers (step (withTable (start 0x10000000 0x00100073 [] []))) (fun t => t.csr.mepc == 0x10000004#32 && t.csr.mcause == 0x00000002#32 && t.csr.mtval == 0x00100073#32 && t.fetchAddress == 0x10000120#32 && t.csr.cycles == 5#64) = true := by decide

/-- V111: `fence iorw, iorw`. -/
theorem test_step_fence :
    answers (step (withTable (start 0x10000000 0x0ff0000f [] []))) (fun t => t.csr.mepc == 0x10000004#32 && t.csr.mcause == 0x00000002#32 && t.csr.mtval == 0x0FF0000F#32 && t.fetchAddress == 0x10000120#32 && t.csr.cycles == 5#64) = true := by decide

/-- V112: `wfi`. -/
theorem test_step_wfi :
    answers (step (withTable (start 0x10000000 0x10500073 [] []))) (fun t => t.csr.mepc == 0x10000004#32 && t.csr.mcause == 0x00000002#32 && t.csr.mtval == 0x10500073#32 && t.fetchAddress == 0x10000120#32 && t.csr.cycles == 5#64) = true := by decide

/-- V107: `0xFFFFFFFF (ROM fill)`. -/
theorem test_step_rom_fill :
    answers (step (withTable (start 0x10000000 0xffffffff [] []))) (fun t => t.csr.mepc == 0x10000004#32 && t.csr.mcause == 0x00000002#32 && t.csr.mtval == 0xFFFFFFFF#32 && t.fetchAddress == 0x10000120#32 && t.csr.cycles == 5#64) = true := by decide

/-- V123: with `mtvec` 0 the vector entry is unmapped: the exception is accepted, and the next step is FATAL. -/
theorem test_step_fatal :
    answers (step (start 0x10000000 0x0010a183 [(1, 0x20000000)] [])) (fun t => isFatal (step t) && t.csr.cycles == 5#64 && t.trBank.mcause == 4#32
      && t.csr.mcause == 0#32) = true := by decide

/-- R382, R383: SRET and FENCE.I trap as V112 and V111 do. -/
theorem test_step_sret :
    answers (step (withTable (start 0x10000000 0x10200073 [] []))) (fun t => t.csr.mcause == 2#32 && t.csr.mtval == 0x10200073#32
      && t.csr.mepc == 0x10000004#32 && t.fetchAddress == 0x10000120#32) = true := by decide

theorem test_step_fenceI :
    answers (step (withTable (start 0x10000000 0x0000100F [] []))) (fun t => t.csr.mcause == 2#32 && t.csr.mtval == 0x0000100F#32
      && t.csr.mepc == 0x10000004#32 && t.fetchAddress == 0x10000120#32) = true := by decide

/-- V119's continuation: the misaligned fetch, `mtval` the address. -/
theorem test_step_misaligned_fetch :
    answers (step (withTable (start 0x10000102 0 [] []))) (fun t => t.csr.mcause == 0#32 && t.csr.mtval == 0x10000102#32
      && t.csr.mepc == 0x10000106#32 && t.fetchAddress == 0x10000100#32) = true := by decide

/-- V120's continuation: the unmapped fetch. -/
theorem test_step_unmapped_fetch :
    answers (step (withTable (start 0x40000000 0 [] []))) (fun t => t.csr.mcause == 1#32 && t.csr.mtval == 0x40000000#32
      && t.csr.mepc == 0x40000004#32 && t.fetchAddress == 0x10000110#32) = true := by decide

/-- The host's placing of a word, from reset and from the middle of an instruction. -/
theorem test_withFetchWord :
    answers (step (State.reset.withFetchWord 32 0x00500093)) (fun t => t.reg 1 == 5#32 && t.fetchAddress == 0x10000004#32) = true
    ∧ answers (step ((after 3 (start 0x10000000 0x0010A183 [] [])).withFetchWord 32 0x00500093)) (fun t => t.reg 1 == 5#32) = true := by decide

/-! ## The two levels side by side (00_scope.md R19) -/

theorem test_cycles_store :
    let s := start 0x10000000 0x00209123 [(1, 0x20000000), (2, 0x12345678)] [(0x20000000, 0xDEADBEEF)]
    agree (step s) (runCycles 5 s) = true := by decide +kernel

theorem test_cycles_csr :
    let s := start 0x10000000 0xC00021F3 [] []
    agree (step s) (runCycles 5 s) = true := by decide +kernel

theorem test_cycles_memory_trap :
    let s := withTable (start 0x10000000 0x0010A183 [(1, 0x20000000)] [])
    agree (step s) (runCycles 7 s) = true := by decide +kernel

theorem test_cycles_mret :
    let s := start 0x10000020 0x30200073 [] []
    agree (step s) (runCycles 5 s) = true := by decide +kernel

/-- A host's break predicate stops the run before the fetch it names, and the hook shows each fetch (R452, R453). -/
theorem test_break :
    let s := start 0x10000000 0x010000EF [] []
    fetchHook s = some 0x10000000#32 ∧ fetchHook (after 1 s) = none
    ∧ answers (runUntilBreak (fun a => a == 0x10000010#32) 20 s) (fun t => t.fetchAddress == 0x10000010#32 && t.csr.cycles == 5#64) = true := by
  decide

/-- R22, R94 and R167 by hand: file bytes, the words of four expansions, and names. -/
theorem test_image_and_pseudo :
    imageWords [0x13#8, 0x00#8, 0x00#8, 0x00#8, 0x67#8, 0x80#8, 0x00#8, 0x00#8] = [0x00000013#32, 0x00008067#32]
    ∧ (Pseudo.li 5 0x12345FFF#32).expand.map encode = [0x123462B7#32, 0xFFF28293#32]
    ∧ (Pseudo.li 5 0xFFFFFFFF#32).expand.map encode = [0xFFF00293#32]
    ∧ Pseudo.ret.expand.map encode = [0x00008067#32] ∧ (Pseudo.rdcycle 3).expand.map encode = [0xC00021F3#32]
    ∧ abiName 1 = "ra" ∧ abiName 18 = "s2" ∧ abiName 31 = "t6" := by decide

/-- An image longer than its device is refused, and a word of one is found where 20_memory.md R86 puts it. -/
theorem test_boot :
    (match boot ⟨⟨2, 2, 0⟩, [1, 2], [], {}⟩ with | .error e => decide (e = .romImageTooLong) | .ok _ => false) = true
    ∧ (match boot ⟨⟨3, 2, 0x88⟩, [1, 2], [3], { mstatus := some 0xFFFFFFFF, mtvec := some 0x20000000 }⟩ with
      | .ok s => s.wordAt 0x10000004 == 2#32 && s.wordAt 0x1000000C == 2#32 && s.wordAt 0x20000004 == 3#32 && s.csr.mstatus == 0x88#32
          && s.csr.mtvec == 0x20000000#32
      | .error _ => false) = true := by decide

/-! ## Witnesses: for each statement with hypotheses, what meets them, at the boundary of each clause -/

/-- `x1` holds an address, `x2` a datum. -/
def at1 (ea : Nat) : State := start 0x10000000 0x00000013 [(1, ea), (2, 0x12345678)] []

/-- In flight: `n` cycles after the Fetch slot of a word, `x1` holding an address. -/
def inFlight (n word ea : Nat) : State := after n (withTable (start 0x10000000 word [(1, ea), (2, 0x12345678)] []))

/-- The invariant as a check. -/
def invIs (s : State) : Bool :=
  decide (s.cfg.wf = true) && decide (s.mem.wf = true) && decide (s.mem.within s.cfg = true) && decide (s.regs[0] = 0)
  && decide (s.csr.mstatus &&& ~~~s.cfg.mstatusMask = 0) && decide (s.orch.mode = .pipeline ↔ s.trBank.state = .idle)
  && decide (s.orch.mode = .trap →
    s.orch.slot = .F ∧ s.deBank = DecodeBank.default ∧ s.exBank = ExecuteBank.default ∧ s.memBank = MemoryBank.default)
  && decide (s.deBank.trap = true ∨ s.deBank.mret = true → s.orch.slot = .E) && decide (s.memBank.trap = true → s.orch.slot = .W)
  && decide (s.deBank.trap = true → hardwareCause s.deBank.mcause = true)
  && decide (s.memBank.trap = true → hardwareCause s.memBank.mcause = true)
  && decide (s.trBank.state = .setCsrAndComputeVector → hardwareCause s.trBank.mcause = true)
  && decide (s.orch.slot ≠ .F → s.ifBank.pcPlus4 = s.ifBank.pc + 4)

theorem inv_of {s : State} (h : invIs s = true) : s.Inv := by
  simp only [invIs, Bool.and_eq_true, decide_eq_true_eq] at h
  obtain ⟨⟨⟨⟨⟨⟨⟨⟨⟨⟨⟨⟨h1, h2⟩, h3⟩, h4⟩, h5⟩, h6⟩, h7⟩, h8⟩, h9⟩, h10⟩, h11⟩, h12⟩, h13⟩ := h
  exact ⟨h1, h2, h3, h4, h5, h6, h7, h8, h9, h10, h11, h12, h13⟩

/-- FATAL-bound, as a check. -/
def fatalIs (s : State) : Bool :=
  decide (s.orch.mode = .trap) && decide (s.trBank.state = .setCsrAndComputeVector)
  && decide (mapped (vectorAddress s.csr.mtvec s.trBank.mcause) = false)

theorem fatal_of {s : State} (h : fatalIs s = true) : s.fatalNext := by
  simpa [fatalIs, State.fatalNext, and_assoc] using h

/-- In a slot, with these Execute-bank flags. -/
def flagged (s : State) (slot : Slot) (signals : List Bool) : Bool := slotIs s slot && decide (s.exBank.signals = signals)

theorem flagged_of {s : State} {slot : Slot} {signals : List Bool} (h : flagged s slot signals = true) :
    s.inSlot slot ∧ s.exBank.signals = signals := by
  simp only [flagged, Bool.and_eq_true, decide_eq_true_eq] at h
  exact ⟨inSlot_of h.1, h.2⟩

/-- O2, O31 (BootKeepsInvariant): an image of two words, one word of RAM, and addresses at the ends of both windows. -/
theorem witness_BootState :
    (∃ s, boot ⟨⟨3, 2, 0x88#32⟩, [1, 2], [3], {}⟩ = .ok s) ∧ region 0x10000000#32 = .rom ∧ region 0x1FFFFFFF#32 = .rom
    ∧ region 0x20000000#32 = .ram ∧ region 0x2FFFFFFF#32 = .ram
    ∧ ([3#32] : List Word)[(0x2FFFFFFF#32).toNat % 2 ^ 28 % (2 ^ 2) / 4]? = some 3#32 := ⟨⟨_, rfl⟩, by decide⟩

theorem witness_LoadResults :
    (at1 0x2FFFFFFF).cfg.wf = true ∧ mapped ((at1 0x2FFFFFFF).effectiveAddress 1 0) = true
    ∧ mapped ((at1 0x10000001).effectiveAddress 1 (-1)) = true ∧ ((at1 0x10000001).effectiveAddress 1 (-1)).toNat % 4 = 0
    ∧ mapped ((at1 0x2FFFFFFF).effectiveAddress 1 (-1)) = true ∧ ((at1 0x2FFFFFFF).effectiveAddress 1 (-1)).toNat % 2 = 0
    ∧ mapped ((at1 0x1FFFFFFC).effectiveAddress 1 0) = true ∧ ((at1 0x1FFFFFFC).effectiveAddress 1 0).toNat % 4 = 0 := by decide

theorem witness_LoadTraps :
    let s := fun ea => withTable (at1 ea)
    (vectorReadable (s 0x2FFFFFFF) 4 = true ∧ ((s 0x2FFFFFFF).effectiveAddress 1 0).toNat % 2 = 1)
    ∧ (vectorReadable (s 0x10000002) 4 = true ∧ ((s 0x10000002).effectiveAddress 1 0).toNat % 4 ≠ 0)
    ∧ (vectorReadable (s 0x30000000) 5 = true ∧ mapped ((s 0x30000000).effectiveAddress 1 0) = false)
    ∧ (mapped ((s 0x10000000).effectiveAddress 1 (-2)) = false ∧ ((s 0x10000000).effectiveAddress 1 (-2)).toNat % 2 = 0)
    ∧ (mapped ((s 0x10000000).effectiveAddress 1 (-4)) = false ∧ ((s 0x10000000).effectiveAddress 1 (-4)).toNat % 4 = 0) := by decide

theorem witness_StoreResults :
    (at1 0x2FFFFFFF).cfg.wf = true ∧ (at1 0x2FFFFFFF).mem.wf = true ∧ region ((at1 0x2FFFFFFF).effectiveAddress 1 0) = .ram
    ∧ region ((at1 0x2FFFFFFF).effectiveAddress 1 (-1)) = .ram ∧ ((at1 0x2FFFFFFF).effectiveAddress 1 (-1)).toNat % 2 = 0
    ∧ region ((at1 0x20000000).effectiveAddress 1 0) = .ram ∧ ((at1 0x20000000).effectiveAddress 1 0).toNat % 4 = 0 := by decide

theorem witness_StoreToRomIsIgnored :
    region ((at1 0x10000000).effectiveAddress 1 0) = .rom ∧ ((at1 0x10000000).effectiveAddress 1 0).toNat % 4 = 0
    ∧ region ((at1 0x1FFFFFFE).effectiveAddress 1 0) = .rom ∧ ((at1 0x1FFFFFFE).effectiveAddress 1 0).toNat % 2 = 0
    ∧ region ((at1 0x1FFFFFFF).effectiveAddress 1 0) = .rom := by decide

theorem witness_StoreTraps :
    let s := fun ea => withTable (at1 ea)
    (vectorReadable (s 0x10000001) 6 = true ∧ ((s 0x10000001).effectiveAddress 1 0).toNat % 2 = 1)
    ∧ (vectorReadable (s 0x2FFFFFFE) 6 = true ∧ ((s 0x2FFFFFFE).effectiveAddress 1 0).toNat % 4 ≠ 0)
    ∧ (vectorReadable (s 0xFFFFFFFF) 7 = true ∧ mapped ((s 0xFFFFFFFF).effectiveAddress 1 0) = false)
    ∧ (mapped ((s 0x0FFFFFFE).effectiveAddress 1 0) = false ∧ ((s 0x0FFFFFFE).effectiveAddress 1 0).toNat % 2 = 0)
    ∧ (mapped ((s 0x30000000).effectiveAddress 1 0) = false ∧ ((s 0x30000000).effectiveAddress 1 0).toNat % 4 = 0) := by decide

/-- O15, O18 (CsrWriteIsReadBack): the nine writable CSRs, and two different names. -/
theorem witness_CsrReadWriteResults :
    ([Csr.mstatus, .misa, .mie, .mtvec, .mscratch, .mepc, .mcause, .mtval, .mip].all fun c => !csrReadOnly (csrAddress c)) = true
    ∧ Csr.cycle ≠ Csr.mstatus ∧ Csr.mip ≠ Csr.mie := by decide

theorem witness_CsrSetClearResults :
    (1 : BitVec 5) ≠ 0 ∧ (31 : BitVec 5) ≠ 0 ∧ csrReadOnly (csrAddress .mstatus) = false ∧ csrReadOnly (csrAddress .mip) = false := by decide

theorem witness_CsrTraps :
    vectorReadable (withTable State.reset) 2 = true ∧ (∀ c : Csr, csrAddress c ≠ 0xB00#12) ∧ (∀ c : Csr, csrAddress c ≠ 0xFFF#12)
    ∧ csrReadOnly (csrAddress .cycle) = true ∧ csrReadOnly (csrAddress .mhartid) = true ∧ (1 : BitVec 5) ≠ 0 := by
  refine ⟨by decide, ?_, ?_, by decide⟩ <;> intro c <;> cases c <;> decide

theorem witness_UnadmittedInstructions : vectorReadable (withTable State.reset) 2 = true := by decide

theorem witness_StepRunsTheDecodedInstruction :
    let s := start 0x2FFFFFFC 0x00108193 [] []
    s.atFetch = true ∧ s.fetchAddress.toNat % 4 = 0 ∧ mapped s.fetchAddress = true ∧ decode (s.wordAt s.fetchAddress) = .ok (.addi 3 1 1)
    ∧ (after 1 s).atFetch = false := by decide

theorem witness_FetchFaultTraps :
    let s := fun pc => withTable (start pc 0 [] [])
    ((s 0x10000001).atFetch = true ∧ (s 0x10000001).fetchAddress.toNat % 4 ≠ 0 ∧ vectorReadable (s 0x10000001) 0 = true)
    ∧ ((s 0x30000003).atFetch = true ∧ (s 0x30000003).fetchAddress.toNat % 4 ≠ 0 ∧ vectorReadable (s 0x30000003) 0 = true)
    ∧ ((s 0x30000000).atFetch = true ∧ (s 0x30000000).fetchAddress.toNat % 4 = 0 ∧ mapped (s 0x30000000).fetchAddress = false
        ∧ vectorReadable (s 0x30000000) 1 = true)
    ∧ mapped (s 0x0FFFFFFC).fetchAddress = false := by decide

theorem witness_IllegalWordTraps :
    let s := withTable (start 0x1FFFFFFC 0xFFFFFFFF [] [])
    s.atFetch = true ∧ s.fetchAddress.toNat % 4 = 0 ∧ mapped s.fetchAddress = true ∧ legal (s.wordAt s.fetchAddress) = false
    ∧ vectorReadable s 2 = true := by decide

/-- O25: with `mtvec = 0` no entry is readable, and `mtvec = 0x0FFFFFBF` parts causes 4 and 5 (entries 0x0FFFFFFC and 0x10000000); bad addresses of loads,
stores and fetches at the ends of their ranges, bad CSR accesses, an illegal word, and steps to FATAL-bound states. -/
theorem witness_UndeliveredException :
    ([0, 1, 2, 4, 5, 6, 7].all fun c => !vectorReadable State.reset c) = true
    ∧ (let s := { State.reset with csr := { State.reset.csr with mtvec := 0x0FFFFFBF#32 } }
      vectorReadable s 4 = false ∧ vectorReadable s 5 = true)
    ∧ ((at1 0x2FFFFFFF).effectiveAddress 1 0).toNat % 2 = 1 ∧ ((at1 0x10000002).effectiveAddress 1 0).toNat % 4 ≠ 0
    ∧ (([0x0FFFFFFE, 0x0FFFFFFC, 0x30000000, 0xFFFFFFFF].all fun a => !mapped ((at1 a).effectiveAddress 1 0)) = true)
    ∧ ((at1 0x0FFFFFFE).effectiveAddress 1 0).toNat % 2 = 0 ∧ ((at1 0x0FFFFFFC).effectiveAddress 1 0).toNat % 4 = 0
    ∧ csrReadOnly (csrAddress .cycle) = true ∧ csrReadOnly (csrAddress .mhartid) = true ∧ (1 : BitVec 5) ≠ 0
    ∧ ((start 0x30000003 0 [] []).atFetch = true ∧ (start 0x30000003 0 [] []).fetchAddress.toNat % 4 ≠ 0)
    ∧ ((start 0x30000000 0 [] []).atFetch = true ∧ (start 0x30000000 0 [] []).fetchAddress.toNat % 4 = 0
      ∧ mapped (start 0x30000000 0 [] []).fetchAddress = false)
    ∧ ((start 0x1FFFFFFC 0xFFFFFFFF [] []).atFetch = true ∧ legal ((start 0x1FFFFFFC 0xFFFFFFFF [] []).wordAt 0x1FFFFFFC#32) = false
      ∧ (start 0x1FFFFFFC 0xFFFFFFFF [] []).fetchAddress = 0x1FFFFFFC#32 ∧ mapped 0x1FFFFFFC#32 = true)
    ∧ ([start 0x10000000 0x0010A183 [(1, 0x20000001)] [], start 0x10000000 0x0010A023 [(1, 0x30000000)] [],
        start 0x10000000 0xB00021F3 [] [], start 0x10000000 0x00000073 [] [], start 0x30000003 0 [] []].all fun s =>
          answers (step s) fatalIs) = true := by decide

theorem witness_FatalBoundStep :
    (start 0x10000000 0x0010A183 [(1, 0x20000000)] []).atFetch = true
    ∧ ∃ t, step (start 0x10000000 0x0010A183 [(1, 0x20000000)] []) = .next t ∧ t.fatalNext := by
  obtain ⟨t, h, hp⟩ := next_of_answers (p := fatalIs) (r := step (start 0x10000000 0x0010A183 [(1, 0x20000000)] [])) (by decide)
  exact ⟨by decide, t, h, fatal_of hp⟩

/-- O27: the ends of the two offsets that have a check. -/
theorem witness_DecodeEncode :
    (Instr.jal 31 0x0FFFFE).wf = true ∧ (Instr.jal 0 0x100000).wf = true ∧ (Instr.beq 31 31 0x0FFE).wf = true
    ∧ (Instr.bgeu 0 0 0x1000).wf = true ∧ (Instr.lui 31 0xFFFFF).wf = true := by decide

theorem witness_EncodeDecode : decode 0xFF9FF06F#32 = .ok (.jal 0 (-8)) := by decide

/-- O32, O33 (CycleKeepsInvariant): a state with memory listed, and one with an exception accepted. -/
theorem witness_StepKeepsInvariant :
    let s := start 0x20000000 0x0020A023 [(1, 0x20000004), (2, 7)] []
    let u := inFlight 3 0x00000000 0
    s.Inv ∧ (∃ t, step s = .next t) ∧ (∃ t, cycle s = .next t) ∧ u.Inv ∧ (∃ t, step u = .next t) ∧ u.trBank.state = .setCsrAndComputeVector := by
  intro s u
  obtain ⟨t1, h1, -⟩ := next_of_answers (r := step s) (p := fun _ => true) (by decide)
  obtain ⟨t2, h2, -⟩ := next_of_answers (r := cycle s) (p := fun _ => true) (by decide)
  obtain ⟨t3, h3, -⟩ := next_of_answers (r := step u) (p := fun _ => true) (by decide)
  exact ⟨inv_of (by decide), ⟨t1, h1⟩, ⟨t2, h2⟩, inv_of (by decide), ⟨t3, h3⟩, by decide⟩

theorem witness_StepIsItsCycles : (start 0x10000000 0x00108193 [] []).atFetch = true ∧ (start 0x30000000 0 [] []).atFetch = true := by decide

theorem witness_DevicesAreMirrored :
    Config.default.wf = true ∧ mapped 0x2FFFFFFF#32 = true ∧ region 0x20000003#32 = region 0x2FFFFFFF#32
    ∧ mapped 0x10000000#32 = true ∧ region 0x1FFFFFFF#32 = region 0x10000000#32 := by decide

/-- O37. Its last clause is met by the loads of `witness_MemorySlotValues`. -/
theorem witness_MemReadSelectsLanes :
    State.reset.cfg.wf = true ∧ mapped 0x10000000#32 = true ∧ mapped 0x20000001#32 = true ∧ mapped 0x1FFFFFFE#32 = true ∧ mapped 0x2FFFFFFF#32 = true
    ∧ (0x10000000#32).toNat % 4 = 0 ∧ (0x20000001#32).toNat % 4 = 1 ∧ (0x1FFFFFFE#32).toNat % 4 = 2 ∧ (0x2FFFFFFF#32).toNat % 4 = 3 := by decide

/-- O38: SW misaligned, SW to ROM, and each width and lane of RAM. -/
theorem witness_MemWriteReplacesItsWord :
    let s := inFlight 3 0x0020A023 0x2FFFFFFC
    let store := [false, true, false, false, false, false, false]
    (s.cfg.wf = true ∧ s.mem.wf = true ∧ s.inSlot .M ∧ s.exBank.signals = store)
    ∧ accessFault .word (0x2FFFFFFC#32) = none ∧ accessFault .word (0x2FFFFFFE#32) ≠ none ∧ region (0x1FFFFFFC#32) = .rom
    ∧ (flagged (inFlight 3 0x0020A023 0x2FFFFFFE) .M store && flagged (inFlight 3 0x0020A023 0x1FFFFFFC) .M store
        && flagged (inFlight 3 0x00209023 0x2FFFFFFE) .M store && flagged (inFlight 3 0x00209023 0x20000000) .M store
        && flagged (inFlight 3 0x00208023 0x20000000) .M store && flagged (inFlight 3 0x00208023 0x20000001) .M store
        && flagged (inFlight 3 0x00208023 0x2FFFFFFE) .M store && flagged (inFlight 3 0x00208023 0x2FFFFFFF) .M store) = true
    ∧ (mapped 0x10000000#32 = true ∧ homeWord s.cfg 0x10000000#32 ≠ homeWord s.cfg 0x2FFFFFFC#32) := by
  refine ⟨⟨by decide, by decide, flagged_of (by decide)⟩, by decide, by decide, by decide, by decide, by decide⟩

theorem witness_StoreLoadRoundTrip :
    (Config.default.wf = true ∧ Memory.wf [] = true ∧ region 0x2FFFFFFF#32 = .ram ∧ (0x2FFFFFFF#32).toNat % Width.byte.bytes = 0
      ∧ region 0x2FFFFFFE#32 = .ram ∧ (0x2FFFFFFE#32).toNat % Width.half.bytes = 0 ∧ (0x20000000#32).toNat % Width.word.bytes = 0)
    ∧ ((at1 0x2FFFFFFC).cfg.wf = true ∧ (at1 0x2FFFFFFC).mem.wf = true ∧ region ((at1 0x2FFFFFFC).effectiveAddress 1 0) = .ram
      ∧ ((at1 0x2FFFFFFC).effectiveAddress 1 0).toNat % 4 = 0)
    ∧ (∀ i ∈ [Instr.sb 2 1 0, .sh 2 1 0, .sw 2 1 0], answers (exec i (at1 0x2FFFFFFC))
        (fun t => decide (t.effectiveAddress 1 0 = (at1 0x2FFFFFFC).effectiveAddress 1 0)) = true) := by decide

theorem witness_RomNeverChanges :
    (∃ t, step (at1 0x10000000) = .next t ∨ cycle (at1 0x10000000) = .next t) ∧ romBase ≤ 0x10000000 ∧ 0x1FFFFFFF < ramBase := by
  obtain ⟨t, h, -⟩ := next_of_answers (r := step (at1 0x10000000)) (p := fun _ => true) (by decide)
  exact ⟨⟨t, .inl h⟩, by decide⟩

/-- O41: the stored word fetched through a mirror of its address. -/
theorem witness_StoreIsFetched :
    let s := at1 0x20000000
    let u : State → State := fun t => { t with exBank := { t.exBank with branchValid := false }, ifBank := { t.ifBank with pcPlus4 := 0x2FC00000#32 } }
    s.cfg.wf = true ∧ s.mem.wf = true ∧ region (s.effectiveAddress 1 0) = .ram ∧ (s.effectiveAddress 1 0).toNat % 4 = 0
    ∧ answers (exec (.sw 2 1 0) s) (fun t => decide ((u t).cfg = t.cfg) && decide ((u t).mem = t.mem)
        && decide (region (u t).fetchAddress = .ram) && decide ((u t).fetchAddress.toNat % 4 = 0)
        && decide (homeAddress s.cfg (u t).fetchAddress = homeAddress s.cfg (s.effectiveAddress 1 0))) = true := by decide

/-- O42: a fetch that reads, a misaligned and an unmapped one. -/
theorem witness_FetchSlot :
    (start 0x2FFFFFFC 0 [] []).inSlot .F ∧ (start 0x10000001 0 [] []).inSlot .F ∧ (start 0x30000000 0 [] []).inSlot .F
    ∧ mapped (start 0x2FFFFFFC 0 [] []).fetchAddress = true ∧ (start 0x2FFFFFFC 0 [] []).fetchAddress.toNat % 4 = 0
    ∧ (start 0x10000001 0 [] []).fetchAddress.toNat % 4 ≠ 0 ∧ mapped (start 0x30000000 0 [] []).fetchAddress = false :=
  ⟨inSlot_of (by decide), inSlot_of (by decide), inSlot_of (by decide), by decide⟩

/-- O43 to O45 (DecodeSlotFields, DecodeSlotSignals, DecodeSlotExceptions): Decode slots with a JAL, an illegal word, a misaligned and an unmapped address, and MRET. -/
theorem witness_DecodeSlot :
    let d := fun pc word => after 1 (withTable (start pc word [] []))
    (d 0x10000000 0x010000EF).inSlot .D ∧ (d 0x10000000 0x00000000).inSlot .D ∧ (d 0x10000002 0).inSlot .D ∧ (d 0x30000000 0).inSlot .D
    ∧ (d 0x10000000 0x30200073).inSlot .D
    ∧ (legal (d 0x10000000 0x010000EF).ifBank.instruction = true ∧ mapped (d 0x10000000 0x010000EF).ifBank.pc = true)
    ∧ (legal (d 0x10000000 0).ifBank.instruction = false ∧ mapped (d 0x10000000 0).ifBank.pc = true ∧ (d 0x10000000 0).ifBank.pc.toNat % 4 = 0)
    ∧ (d 0x10000002 0).ifBank.pc.toNat % 4 ≠ 0 ∧ mapped (d 0x30000000 0).ifBank.pc = false ∧ (d 0x30000000 0).ifBank.pc.toNat % 4 = 0
    ∧ answers (cycle (d 0x10000000 0x010000EF)) (fun t => !t.deBank.trap && t.deBank.isJAL) = true
    ∧ answers (cycle (d 0x10000000 0)) (fun t => t.deBank.trap) = true
    ∧ answers (cycle (d 0x10000000 0x30200073)) (fun t => t.deBank.mret) = true :=
  ⟨inSlot_of (by decide), inSlot_of (by decide), inSlot_of (by decide), inSlot_of (by decide), inSlot_of (by decide), by decide⟩

/-- O46: OP words of all eight values of `funct3`, and a branch. -/
theorem witness_ExecuteSlot :
    (inFlight 2 0x002081B3 0).inSlot .E
    ∧ ([(0x002081B3, 0), (0x002091B3, 1), (0x0020A1B3, 2), (0x0020B1B3, 3), (0x0020C1B3, 4), (0x4020D1B3, 5), (0x0020E1B3, 6), (0x0020F1B3, 7),
        (0x00208463, 0)].all fun p => slotIs (inFlight 2 p.1 0) .E && decide ((inFlight 2 p.1 0).deBank.funct3 = BitVec.ofNat 3 p.2)) = true :=
  ⟨inSlot_of (by decide), by decide⟩

/-- O47: LB, LH, LW, LBU, LHU, LUI, JAL, AUIPC, ADD, BEQ, with no exception. -/
theorem witness_MemorySlotValues :
    (inFlight 3 0x00008203 0x20000003).inSlot .M
    ∧ ([0x00008203, 0x00009303, 0x0000A383, 0x0000C183, 0x0000D283].all fun w =>
        flagged (inFlight 3 w 0x2FFFFFFC) .M [false, false, true, false, false, false, false]
        && answers (cycle (inFlight 3 w 0x2FFFFFFC)) (fun t => !t.memBank.trap)) = true
    ∧ (flagged (inFlight 3 0x123452B7 0) .M [false, false, false, true, false, false, false]
        && flagged (inFlight 3 0x010000EF 0) .M [false, false, false, false, false, true, false]
        && flagged (inFlight 3 0x00001297 0) .M [false, false, false, false, true, false, false]
        && flagged (inFlight 3 0x002081B3 0) .M [true, false, false, false, false, false, false]
        && flagged (inFlight 3 0x00208463 0) .M (List.replicate 7 false)) = true :=
  ⟨inSlot_of (by decide), by decide, by decide⟩

/-- O48: a CSRRS read at each of the nineteen addresses. -/
theorem witness_CsrReadTable :
    (inFlight 3 0xC00021F3 0).inSlot .M
    ∧ ([0xC00, 0xC01, 0xC02, 0xC80, 0xC81, 0xC82, 0x300, 0x301, 0x304, 0x305, 0x340, 0x341, 0x342, 0x343, 0x344, 0xF11, 0xF12, 0xF13, 0xF14].all
        fun a =>
          let s := inFlight 3 (a * 2 ^ 20 + 0x21F3) 0
          flagged s .M [false, false, false, false, false, false, true] && s.exBank.csrShouldRead && !s.exBank.csrShouldWrite
          && csrAccessOk s.exBank.csrAddress s.exBank.csrShouldWrite && decide (s.exBank.csrAddress = BitVec.ofNat 12 a)) = true :=
  ⟨inSlot_of (by decide), by decide⟩

/-- O49: the three forms writing, one of them not reading, and a pure read. -/
theorem witness_CsrAccessSlot :
    (inFlight 3 0x340091F3 0).inSlot .M
    ∧ ([(0x340091F3, 1), (0x34009073, 1), (0x3400A1F3, 2), (0x3400B1F3, 3)].all fun p =>
        let s := inFlight 3 p.1 0
        flagged s .M [false, false, false, false, false, false, true] && s.exBank.csrShouldWrite
        && csrAccessOk s.exBank.csrAddress s.exBank.csrShouldWrite && decide (s.exBank.funct3.extractLsb' 0 2 = BitVec.ofNat 2 p.2)) = true
    ∧ (inFlight 3 0xF14021F3 0).exBank.csrShouldWrite = false
    ∧ csrAccessOk (inFlight 3 0xF14021F3 0).exBank.csrAddress (inFlight 3 0xF14021F3 0).exBank.csrShouldWrite = true
    ∧ (let d := decodeLatch ⟨0x10000000#32, 0x10000004#32, 0x3400B1F3#32⟩ State.reset.regs
      legal 0x3400B1F3#32 = true ∧ d.isSystem = true ∧ d.mret = false ∧ d.funct3.extractLsb' 0 2 ≠ 1) :=
  ⟨inSlot_of (by decide), by decide, by decide⟩

/-- O50: the five loads, at the last byte of RAM. -/
theorem witness_LoadAddressMisalignedRaised :
    (inFlight 3 0x00009303 0x2FFFFFFF).inSlot .M
    ∧ ([(0x00008203, 0), (0x00009303, 1), (0x0000A383, 2), (0x0000C183, 4), (0x0000D283, 5)].all fun p =>
        let s := inFlight 3 p.1 0x2FFFFFFF
        flagged s .M [false, false, true, false, false, false, false] && decide (s.exBank.funct3 = BitVec.ofNat 3 p.2)) = true :=
  ⟨inSlot_of (by decide), by decide⟩

/-- O51, O52 (CountersCount): a WriteBack slot that writes, one whose destination is `x0`, one that writes nothing, and their cycles. -/
theorem witness_WriteBackSlot :
    (inFlight 4 0x00108193 0).inSlot .W ∧ (inFlight 4 0x00108013 0).inSlot .W ∧ (inFlight 4 0x00208463 0).inSlot .W
    ∧ (inFlight 4 0x00108193 0).memBank.writebackValueValid = true ∧ (inFlight 4 0x00208463 0).memBank.writebackValueValid = false
    ∧ answers (cycle (inFlight 4 0x00108193 0)) (fun _ => true) = true ∧ slotIs (inFlight 3 0x00108193 0) .W = false
    ∧ answers (cycle (inFlight 3 0x00108193 0)) (fun _ => true) = true :=
  ⟨inSlot_of (by decide), inSlot_of (by decide), inSlot_of (by decide), by decide⟩

/-- O53: a cycle in pipeline mode with no request, and one in trap mode outside `SetProgramCounter`. -/
theorem witness_OneStagePerCycle :
    answers (cycle (inFlight 3 0x00108193 0)) (fun _ => true) = true ∧ (inFlight 3 0x00108193 0).inSlot .M
    ∧ answers (cycle (inFlight 3 0x00000000 0)) (fun _ => true) = true ∧ (inFlight 3 0x00000000 0).orch.mode = .trap
    ∧ (inFlight 3 0x00000000 0).trBank.state ≠ .setProgramCounter :=
  ⟨by decide, inSlot_of (by decide), by decide⟩

/-- O54, O55 (LatchKeepsItsContext): a request of MemoryAccess, one of Decode, the latch read, and a request of MRET. -/
theorem witness_ExceptionAccepted :
    ((inFlight 4 0x0010A183 0x20000000).orch.mode = .pipeline ∧ (inFlight 4 0x0010A183 0x20000000).memBank.trap = true)
    ∧ ((inFlight 2 0x00000073 0).orch.mode = .pipeline ∧ (inFlight 2 0x00000073 0).memBank.trap = false
        ∧ (inFlight 2 0x00000073 0).deBank.trap = true)
    ∧ ((inFlight 3 0x00000073 0).orch.mode = .trap ∧ (inFlight 3 0x00000073 0).trBank.state = .setCsrAndComputeVector)
    ∧ ((inFlight 2 0x30200073 0).deBank.mret = true ∧ (inFlight 2 0x30200073 0).orch.mode = .pipeline
        ∧ (inFlight 2 0x30200073 0).memBank.trap = false ∧ (inFlight 2 0x30200073 0).deBank.trap = false)
    ∧ ([inFlight 4 0x0010A183 0x20000000, inFlight 2 0x00000073 0, inFlight 3 0x00000073 0, inFlight 2 0x30200073 0].all fun s =>
        answers (cycle s) (fun _ => true)) = true := by decide

/-- O56: a readable entry and an unreadable one. -/
theorem witness_VectorIsLoaded :
    ((inFlight 3 0x00000073 0).orch.mode = .trap ∧ (inFlight 3 0x00000073 0).trBank.state = .setCsrAndComputeVector
      ∧ mapped (vectorAddress (inFlight 3 0x00000073 0).csr.mtvec (inFlight 3 0x00000073 0).trBank.mcause) = true)
    ∧ fatalIs (after 3 (start 0x10000000 0x00000073 [] [])) = true := by decide

theorem witness_ProgramCounterIsSet :
    (inFlight 4 0x00000073 0).orch.mode = .trap ∧ (inFlight 4 0x00000073 0).trBank.state = .setProgramCounter ∧ (inFlight 4 0x00000073 0).Inv :=
  ⟨by decide, by decide, inv_of (by decide)⟩

theorem witness_ReturnFromTrapState :
    (inFlight 3 0x30200073 0).orch.mode = .trap ∧ (inFlight 3 0x30200073 0).trBank.state = .returnFromTrap := by decide

theorem witness_InertCsrsHaveNoEffect :
    slotIs (at1 0) .M = false ∧ (inFlight 3 0x002081B3 0).exBank.isSystem = false
    ∧ ¬ (opcodeOf (encode .mret) = 0b1110011#7 ∧ funct3Of (encode .mret) ≠ 0)
    ∧ ¬ (opcodeOf (encode (.addi 3 1 1)) = 0b1110011#7 ∧ funct3Of (encode (.addi 3 1 1)) ≠ 0) := by decide

theorem witness_PlacedWordRuns : (start 0x20000000 0x0020A023 [(1, 0x20000004), (2, 7)] []).Inv ∧ (Instr.jal 1 16).wf = true :=
  ⟨inv_of (by decide), by decide⟩

end Sys2Proof.Tests
end

section
/-!
SUPPORT. What the checks, the address decoder and the lanes of the bus come to in numbers (20_memory.md R81, R82, R96, R97, R105), and a bus read
after a bus write (R98).
-/
namespace Sys2Proof.Machine

open Sys2Proof

/-! ## The checks and the address decoder -/

theorem region_unmapped_iff (a : Word) :
    region a = .unmapped ↔ a.toNat / windowSize ≠ 1 ∧ a.toNat / windowSize ≠ 2 := by
  rw [Ne, Ne, ← region_rom_iff, ← region_ram_iff]
  cases region a <;> simp

theorem mapped_iff_ne_unmapped (a : Word) : mapped a = true ↔ region a ≠ .unmapped := bne_iff_ne

/-- Natural alignment, on the full address (R100). -/
theorem misaligned_iff (w : Width) (a : Word) : misaligned w a = true ↔ a.toNat % w.bytes ≠ 0 := by
  have hlow (n : Nat) : a.extractLsb' 0 n = 0 ↔ a.toNat % 2 ^ n = 0 := by
    rw [← BitVec.toNat_inj, BitVec.extractLsb'_toNat]; simp
  cases w with
  | byte => simp [misaligned, Width.bytes, Nat.mod_one]
  | half => rw [misaligned, bne_iff_ne, Ne, hlow]; rfl
  | word => rw [misaligned, bne_iff_ne, Ne, hlow]; rfl

theorem aligned_iff (w : Width) (a : Word) : misaligned w a = false ↔ a.toNat % w.bytes = 0 := by
  rw [← Bool.not_eq_true, misaligned_iff, not_not]

/-- A device's size is a power of two, so its mask keeps the remainder (R82). -/
theorem and_deviceSize_sub_one (c : Config) (r : Region) (x : Nat) : x &&& (deviceSize c r - 1) = x % deviceSize c r := by
  cases r with
  | rom => exact Nat.and_two_pow_sub_one_eq_mod x c.romSizeLog2
  | ram => exact Nat.and_two_pow_sub_one_eq_mod x c.ramSizeLog2
  | unmapped => exact Nat.and_two_pow_sub_one_eq_mod x 28

/-- The word at index `offset(addr) >> 2` of the window (R82). -/
theorem homeWord_eq_index (c : Config) (a : Word) :
    homeWord c a = a.toNat / 2 ^ 28 * 2 ^ 28 + 4 * (((a.toNat % 2 ^ 28) &&& (deviceSize c (region a) - 1)) / 4) := by
  rw [and_deviceSize_sub_one, homeWord, homeAddress, show windowSize = 2 ^ 28 from rfl]
  omega

/-- Address bit 1 chooses the half (R96). -/
theorem laneIndex_lt_two_iff (a : Word) : laneIndex a < 2 ↔ ¬ a.getLsbD 1 = true := by
  have hbit : a.getLsbD 1 = decide (a.toNat / 2 % 2 = 1) := Nat.testBit_eq_decide_div_mod_eq
  rw [hbit, decide_eq_true_eq, laneIndex]
  omega

/-! ## Lanes selected and lanes merged -/

theorem selectLanes_half (a v : Word) :
    selectLanes .half (laneIndex a) v = (if a.getLsbD 1 then v.extractLsb' 0 16 else v.extractLsb' 16 16).setWidth 32 := by
  simp only [selectLanes, laneIndex_lt_two_iff, ite_not]

theorem mergeLanes_half (a old v : Word) :
    mergeLanes .half (laneIndex a) old v =
      if a.getLsbD 1 then old.extractLsb' 16 16 ++ v.extractLsb' 0 16 else v.extractLsb' 0 16 ++ old.extractLsb' 0 16 := by
  simp only [mergeLanes, laneIndex_lt_two_iff, ite_not]

/-- The lanes a write stores are those a read of the same access selects (R96, R97). -/
theorem selectLanes_mergeLanes (w : Width) {lane : Nat} (old v : Word) (ha : lane % w.bytes = 0) (hl : lane + w.bytes ≤ 4) :
    selectLanes w lane (mergeLanes w lane old v) = (v.setWidth (8 * w.bytes)).setWidth 32 := by
  cases w with
  | byte =>
    have hlane : lane < 4 := hl
    have hstored : laneOf (mergeLanes .byte lane old v) lane = v.extractLsb' 0 8 := by
      rw [laneOf_mergeLanes .byte old v ha hl hlane, if_pos ⟨le_rfl, Nat.lt_succ_self lane⟩, Nat.sub_self]; rfl
    rw [selectLanes, hstored, ← BitVec.setWidth_eq_extractLsb' (by omega)]; rfl
  | half =>
    have hhalf : v.extractLsb' 0 16 = v.setWidth 16 := (BitVec.setWidth_eq_extractLsb' (by omega)).symm
    simp only [selectLanes, mergeLanes]
    split
    · rw [BitVec.extractLsb'_append_eq_left, hhalf]; rfl
    · rw [BitVec.extractLsb'_append_eq_right, hhalf]; rfl
  | word => simp [selectLanes, mergeLanes, Width.bytes]

/-! ## A bus read after a bus write -/

theorem busWord_busWrite_ram {c : Config} {m : Memory} (w : Width) {a : Word} (v : Word) (hm : m.wf = true) (hr : region a = .ram) :
    busWord c (busWrite c m w a v) a = mergeLanes w (laneIndex a) (busWord c m a) v := by
  rw [busWrite_ram hr]
  exact Memory.readWord_writeWord_same _ _ hm

/-- A write leaves every other word alone: two words that are not the same do not overlap (R97). -/
theorem busWord_busWrite_of_ne {c : Config} (m : Memory) (w : Width) {a b : Word} (v : Word) (h : homeWord c b ≠ homeWord c a) :
    busWord c (busWrite c m w a v) b = busWord c m b := by
  have hdisjoint : homeWord c b + 4 ≤ homeWord c a ∨ homeWord c a + 4 ≤ homeWord c b := by
    have := homeWord_dvd c a
    have := homeWord_dvd c b
    omega
  unfold busWrite
  split
  · exact Memory.readWord_writeWord_of_disjoint m _ hdisjoint
  · rfl
  · rfl

/-- R98. -/
theorem busRead_busWrite_ram {c : Config} {m : Memory} {w : Width} {a : Word} (v : Word) (hm : m.wf = true) (hr : region a = .ram)
    (ha : misaligned w a = false) : busRead c (busWrite c m w a v) w a = (v.setWidth (8 * w.bytes)).setWidth 32 := by
  obtain ⟨hlane, hfits⟩ := laneIndex_of_aligned ha
  rw [busRead, busWord_busWrite_ram w v hm hr, selectLanes_mergeLanes w _ v hlane hfits]

theorem extendLoaded_byte (unsigned : Bool) (x : BitVec 8) :
    extendLoaded .byte unsigned (x.setWidth 32) = if unsigned then x.setWidth 32 else x.signExtend 32 := by
  cases unsigned <;> simp [extendLoaded, BitVec.extractLsb'_setWidth_of_le]

theorem extendLoaded_half (unsigned : Bool) (x : BitVec 16) :
    extendLoaded .half unsigned (x.setWidth 32) = if unsigned then x.setWidth 32 else x.signExtend 32 := by
  cases unsigned <;> simp [extendLoaded, BitVec.extractLsb'_setWidth_of_le]

/-- A load whose effective address is that of the store before it writes the stored bits, extended (R98). -/
theorem yields_load_of_store {s t : State} {i j : Instr} {rs2 rs1 base rd : RegIdx} {imm off : BitVec 12} {w : Width} {unsigned : Bool}
    (hstore : exec i s = .next (s.store i rs2 rs1 imm w)) (hload : exec j t = .next (t.load j rd base off w unsigned))
    (hm : s.mem.wf = true) (hr : region (s.effectiveAddress rs1 imm) = .ram) (he : t.effectiveAddress base off = s.effectiveAddress rs1 imm)
    (ha : (s.effectiveAddress rs1 imm).toNat % w.bytes = 0) (ht : exec i s = .next t) {v : Word}
    (hv : extendLoaded w unsigned (((s.reg rs2).setWidth (8 * w.bytes)).setWidth 32) = v) : Yields t j rd v := by
  have haligned := (aligned_iff w (s.effectiveAddress rs1 imm)).2 ha
  have hmapped := (mapped_iff (s.effectiveAddress rs1 imm)).2 (.inr hr)
  rw [State.store_of_ok haligned hmapped] at hstore
  obtain rfl := Host.Outcome.next.inj (ht.symm.trans hstore)
  rw [State.load_of_ok (by rw [he]; exact haligned) (by rw [he]; exact hmapped), he] at hload
  rw [← hv, ← busRead_busWrite_ram (c := s.cfg) (s.reg rs2) hm hr haligned]
  exact writes_of_retireWriting hload rfl

end Sys2Proof.Machine
end

section
/-!
SUPPORT. The M cycle, class by class: what a load, a store and an instruction that is no CSR access leave of memory and of the CSR bank
(40_pipeline.md R241, R243, R246, R248).
-/
namespace Sys2Proof.Machine

open Sys2Proof

/-- The checks of a load or store are those of its access (R241). -/
theorem memoryFault_eq_none_iff {x : ExecuteBank} (h : (x.isLoad || x.isStore) = true) :
    memoryFault x = none ↔ accessFault (widthOf x.funct3) (accessAddress x) = none := by
  rw [memoryFault, if_pos h]
  cases accessFault (widthOf x.funct3) (accessAddress x) with
  | none => simp
  | some f => cases f <;> simp

theorem memoryStageMem_of_not_store {s : State} (h : s.exBank.isStore = false) : memoryStageMem s = s.mem := by
  rw [memoryStageMem]
  split
  · rfl
  · rw [h]; rfl

theorem memoryStageMem_of_fault {s : State} (h : memoryFault s.exBank ≠ none) : memoryStageMem s = s.mem := by
  obtain ⟨e, he⟩ := Option.ne_none_iff_exists'.1 h
  simp only [memoryStageMem, he]

theorem memoryStageMem_of_store {s : State} (h : s.exBank.isStore = true) (hf : memoryFault s.exBank = none) :
    memoryStageMem s = busWrite s.cfg s.mem (widthOf s.exBank.funct3) (accessAddress s.exBank) s.exBank.rs2 := by
  simp only [memoryStageMem, hf, h, if_true]

/-- A store to ROM is dropped (20_memory.md R87), whether or not its checks pass. -/
theorem memoryStageMem_of_rom {s : State} (h : s.exBank.isStore = true) (hr : region (accessAddress s.exBank) = .rom) :
    memoryStageMem s = s.mem := by
  by_cases hf : memoryFault s.exBank = none
  · rw [memoryStageMem_of_store h hf, busWrite_rom hr]
  · exact memoryStageMem_of_fault hf

theorem memoryStageCsr_of_not_system {s : State} (staged : CsrFile) (h : s.exBank.isSystem = false) :
    memoryStageCsr s staged = staged := by
  rw [memoryStageCsr]
  split
  · rfl
  · rw [h]; rfl

/-- An M cycle commits the memory its stage gives. -/
theorem cycle_memory_mem {s : State} (h : s.inSlot .M) : ∃ t, cycle s = .next t ∧ t.cfg = s.cfg ∧ t.mem = memoryStageMem s :=
  ⟨_, cycle_memory h.1 h.2, rfl, rfl⟩

end Sys2Proof.Machine
end

section
/-!
The obligations of 20_memory.md: the address map, a bus read, a bus write, and one after the other.
-/
namespace Sys2Proof.Machine

open Sys2Proof

/-- Settles O35: a region is the quotient of the address by the window size. -/
theorem addressMap : Obligations.AddressMap := by
  intro a
  have hlt := a.isLt
  rw [mapped_iff_ne_unmapped, region_rom_iff, region_ram_iff, region_unmapped_iff, windowSize]
  exact ⟨by omega, by omega, by omega, Iff.rfl⟩

/-- Settles O37: the checks by `misaligned_iff`, the word by `homeWord_eq_index`, and the load's M cycle by the frame of its stage. -/
theorem memReadSelectsLanes : Obligations.MemReadSelectsLanes := by
  intro s a _
  refine ⟨fun w => ?_, fun _ => ?_, fun ⟨hslot, hquiet⟩ hload => ?_⟩
  · simp only [accessFault, misaligned_iff, mapped_iff_ne_unmapped, ite_not]
  · have hword (w : Width) : busRead s.cfg s.mem w a = selectLanes w (laneIndex a) (s.mem.readWord (a.toNat / 2 ^ 28 * 2 ^ 28
        + 4 * (((a.toNat % 2 ^ 28) &&& (deviceSize s.cfg (region a) - 1)) / 4))) := by
      rw [← homeWord_eq_index]; rfl
    have hbyte {k : Nat} (hk : a.toNat % 4 = k) (v : Word) : selectLanes .byte (laneIndex a) v = (laneOf v k).setWidth 32 := by
      rw [laneIndex, hk]; rfl
    simp only [hword]
    exact ⟨rfl, selectLanes_half a _, fun h => hbyte h _, fun h => hbyte h _, fun h => hbyte h _, fun h => hbyte h _⟩
  · obtain ⟨-, hstore, -, -, -, -, hsystem, -⟩ := by simpa only [ExecuteBank.signals, List.cons.injEq] using hload
    refine ⟨memoryStage s, ?_⟩
    rw [cycle_memory hslot hquiet, memoryStageMem_of_not_store hstore, memoryStageCsr_of_not_system _ hsystem]
    rfl

/-- Settles O38: the M cycle's memory is one bus write or none, whose word is `mergeLanes` of the old one. -/
theorem memWriteReplacesItsWord : Obligations.MemWriteReplacesItsWord := by
  intro s _ hm hslot hsignals a v w
  obtain ⟨-, hstore, -⟩ := by simpa only [ExecuteBank.signals, List.cons.injEq] using hsignals
  obtain ⟨t, ht, hcfg, htmem⟩ := cycle_memory_mem hslot
  have hcheck : memoryFault s.exBank = none ↔ accessFault (widthOf s.exBank.funct3) a = none :=
    memoryFault_eq_none_iff (by rw [hstore, Bool.or_true])
  refine ⟨t, ht, hcfg, fun hf => ?_, fun hr => ?_, fun hf hr => ?_⟩
  · rw [htmem, memoryStageMem_of_fault (mt hcheck.1 hf)]
  · rw [htmem, memoryStageMem_of_rom hstore hr]
  have hwordAt (b : Word) : t.wordAt b = busWord s.cfg (busWrite s.cfg s.mem (widthOf s.exBank.funct3) a v) b := by
    rw [State.wordAt, hcfg, htmem, memoryStageMem_of_store hstore (hcheck.2 hf)]; rfl
  have hword : t.wordAt a = mergeLanes (widthOf s.exBank.funct3) (laneIndex a) w v := by
    rw [hwordAt, busWord_busWrite_ram _ v hm hr]; rfl
  refine ⟨fun b _ hb => ?_, fun hw => ?_, fun hw => ?_, fun hw => ?_⟩
  · rw [hwordAt, busWord_busWrite_of_ne s.mem _ v hb]; rfl
  · rw [hword, hw]; rfl
  · rw [hword, hw, mergeLanes_half]
  · rw [hword, hw, laneIndex]
    refine ⟨fun h => ?_, fun h => ?_, fun h => ?_, fun h => ?_⟩ <;> rw [h] <;> rfl

/-- Settles O39: a read after a write of the same access, at the bus and through each load after its store. -/
theorem storeLoadRoundTrip : Obligations.StoreLoadRoundTrip := by
  refine ⟨fun c m w a v _ hm hr ha => ?_, fun s t rs2 rs1 base rd imm off _ hm hr he => ⟨fun ht => ?_, fun ha ht => ?_, fun ha ht => ?_⟩⟩
  · have hfits : 8 * w.bytes ≤ 32 := by cases w <;> decide
    rw [busRead_busWrite_ram v hm hr ((aligned_iff w a).2 ha), BitVec.toNat_setWidth_of_le hfits, BitVec.toNat_setWidth]
  · exact ⟨yields_load_of_store (w := .byte) rfl rfl hm hr he (Nat.mod_one _) ht (extendLoaded_byte false _),
      yields_load_of_store (w := .byte) rfl rfl hm hr he (Nat.mod_one _) ht (extendLoaded_byte true _)⟩
  · exact ⟨yields_load_of_store (w := .half) rfl rfl hm hr he ha ht (extendLoaded_half false _),
      yields_load_of_store (w := .half) rfl rfl hm hr he ha ht (extendLoaded_half true _)⟩
  · exact yields_load_of_store (w := .word) rfl rfl hm hr he ha ht rfl

end Sys2Proof.Machine
end

section
/-!
SUPPORT. What each stage of 40_pipeline.md stages, case by case: the word of a fetch and the placeholder of a fetch that faults (R211), the fields
Decode stages with or without an exception (R220, R224, R226), the write-back value of each class (R244 to R249), and the writes of a CSR access
(R246).
-/
namespace Sys2Proof.Machine

open Sys2Proof

/-! ## Fetch -/

theorem fetchHook_of_inSlot {s : State} (h : s.inSlot .F) : fetchHook s = some s.fetchAddress := by
  rw [fetchHook, if_pos ((State.atFetch_iff s).2 h)]

/-- The checks of a fetch are those of a word access (20_memory.md R105). -/
theorem accessFault_word_none_iff (a : Word) : accessFault .word a = none ↔ a.toNat % 4 = 0 ∧ mapped a = true := by
  rw [accessFault_none_iff, aligned_iff]; rfl

theorem fetchStage_instruction_of_ok {s : State} (h : accessFault .word s.fetchAddress = none) :
    (fetchStage s).instruction = busRead s.cfg s.mem .word s.fetchAddress := by
  simp only [fetchStage, State.fetch, h]; rfl

theorem fetchStage_instruction_of_fault {s : State} (h : accessFault .word s.fetchAddress ≠ none) : (fetchStage s).instruction = 0 := by
  obtain ⟨f, hf⟩ := Option.ne_none_iff_exists'.1 h
  cases f <;> simp only [fetchStage, State.fetch, hf]

/-! ## Decode -/

/-- An exception of Decode replaces the nine signals, `mret` and the trap context alone: every other field is the latch's (R226). -/
theorem decodeStage_eq_latch_but_requests (f : FetchBank) (regs : RegFile) :
    ∃ d : DecodeBank, decodeStage f regs = { decodeLatch f regs with
      isAluOperation := d.isAluOperation
      isStore := d.isStore
      isLoad := d.isLoad
      isLUI := d.isLUI
      isAUIPC := d.isAUIPC
      isBranch := d.isBranch
      isJAL := d.isJAL
      isJump := d.isJump
      isSystem := d.isSystem
      mret := d.mret
      trap := d.trap
      mcause := d.mcause
      mepc := d.mepc
      mtval := d.mtval } := by
  refine ⟨decodeStage f regs, ?_⟩
  rw [decodeStage]
  cases decodeFault f <;> rfl

theorem csrShouldWrite_eq_false_iff (f3 : BitVec 3) (rs1Field : RegIdx) :
    csrShouldWrite f3 rs1Field = false ↔ f3.getLsbD 1 = true ∧ rs1Field = 0 := by
  simp only [csrShouldWrite, Bool.not_eq_false', Bool.and_eq_true, beq_iff_eq]

theorem csrShouldRead_eq_false_iff (f3 : BitVec 3) (rd : RegIdx) :
    csrShouldRead f3 rd = false ↔ f3.extractLsb' 0 2 = 0b01#2 ∧ rd = 0 := by
  simp only [csrShouldRead, Bool.not_eq_false', Bool.and_eq_true, beq_iff_eq]

/-- The SYSTEM words the hardware admits (30_encoding.md R156, R158). -/
theorem legal_system_iff {w : Word} (h : opcodeOf w = opSystem) :
    legal w = true ↔ (funct3Of w = 0b001#3 ∨ funct3Of w = 0b010#3 ∨ funct3Of w = 0b011#3 ∨ funct3Of w = 0b101#3 ∨ funct3Of w = 0b110#3
      ∨ funct3Of w = 0b111#3) ∨ w = mretWord := by
  simp [legal, h, opSystem, opLui, opAuipc, opJal, opJalr, opBranch, opLoad, opStore, opOpImm, opOp, or_assoc]

/-- A legal SYSTEM word other than MRET is an access of one of the three forms (R246). -/
theorem csrForm_of_legal {w : Word} (hl : legal w = true) (ho : opcodeOf w = opSystem) (hm : w ≠ mretWord) :
    (funct3Of w).extractLsb' 0 2 = 1 ∨ (funct3Of w).extractLsb' 0 2 = 2 ∨ (funct3Of w).extractLsb' 0 2 = 3 := by
  obtain h | h | h | h | h | h := ((legal_system_iff ho).1 hl).resolve_right hm <;> rw [h] <;> decide

/-! ## MemoryAccess -/

@[simp] theorem memoryStage_rd (s : State) : (memoryStage s).rd = s.exBank.rd := by
  rw [memoryStage]; cases memoryFault s.exBank <;> rfl

@[simp] theorem memoryStage_pc (s : State) : (memoryStage s).pc = s.exBank.pc := by
  rw [memoryStage]; cases memoryFault s.exBank <;> rfl

theorem memoryStage_of_ok {s : State} (h : memoryFault s.exBank = none) :
    memoryStage s = ⟨writebackOf s s.exBank, writebackValid s.exBank, s.exBank.rd, s.exBank.pc, false, 0, 0, 0⟩ := by
  simp only [memoryStage, h]

theorem memoryStage_trap_eq_false_iff (s : State) : (memoryStage s).trap = false ↔ memoryFault s.exBank = none := by
  rw [memoryStage]; cases memoryFault s.exBank <;> simp

/-- An M cycle commits the three values its stage gives, over the counter's increment. -/
theorem cycle_memory_staged {s : State} (h : s.inSlot .M) :
    ∃ t, cycle s = .next t ∧ t.memBank = memoryStage s ∧ t.mem = memoryStageMem s
      ∧ t.csr = memoryStageCsr s { s.csr with cycles := s.csr.cycles + 1 } :=
  ⟨_, cycle_memory h.1 h.2, rfl, rfl, rfl⟩

section Signals

variable {s : State} {x : ExecuteBank} {alu store load lui auipc jump system : Bool}

theorem ExecuteBank.signals_eq_iff :
    x.signals = [alu, store, load, lui, auipc, jump, system] ↔
      x.isAluOperation = alu ∧ x.isStore = store ∧ x.isLoad = load ∧ x.isLUI = lui ∧ x.isAUIPC = auipc ∧ x.isJump = jump
        ∧ x.isSystem = system := by
  simp only [ExecuteBank.signals, List.cons.injEq, and_true]

/-- The write-back value is chosen by the class flags alone: for literal flags, the value of the one class (R243 to R246). -/
theorem writebackOf_of_signals (h : x.signals = [alu, store, load, lui, auipc, jump, system]) :
    writebackOf s x =
      if store then 0
      else if load then extendLoaded (widthOf x.funct3) (x.funct3.getLsbD 2) (busRead s.cfg s.mem (widthOf x.funct3) (accessAddress x))
      else if lui then x.imm32
      else if jump then x.pcPlus4
      else if auipc then x.branchAddress
      else if alu then x.aluResult
      else if system then csrOld s.csr x
      else 0 := by
  obtain ⟨rfl, rfl, rfl, rfl, rfl, rfl, rfl⟩ := ExecuteBank.signals_eq_iff.1 h
  rfl

end Signals

/-- The extension of a loaded value: its low bits, as many as the access moves, zero- or sign-extended (R244). -/
theorem extendLoaded_eq (w : Width) (unsigned : Bool) (d : Word) :
    extendLoaded w unsigned d = if unsigned then (d.setWidth (8 * w.bytes)).setWidth 32 else (d.setWidth (8 * w.bytes)).signExtend 32 := by
  rw [BitVec.setWidth_eq_extractLsb' (show 8 * w.bytes ≤ 32 by cases w <;> decide)]
  cases w with
  | byte => cases unsigned <;> rfl
  | half => cases unsigned <;> rfl
  | word => cases unsigned <;> simp [extendLoaded, Width.bytes]

/-- The value of a load, once its `funct3` fixes the width and the extension (R244). -/
theorem writebackOf_load {s : State} {x : ExecuteBank} (h : x.signals = [false, false, true, false, false, false, false]) {f3 : BitVec 3}
    (hf : x.funct3 = f3) :
    writebackOf s x = extendLoaded (widthOf f3) (f3.getLsbD 2) (busRead s.cfg s.mem (widthOf f3) (accessAddress x)) := by
  subst hf
  exact writebackOf_of_signals h

/-! ## A CSR access -/

theorem memoryFault_of_csrAccessOk {x : ExecuteBank} (h : x.signals = [false, false, false, false, false, false, true])
    (hok : csrAccessOk x.csrAddress x.csrShouldWrite = true) : memoryFault x = none := by
  obtain ⟨-, hstore, hload, -, -, -, hsystem⟩ := ExecuteBank.signals_eq_iff.1 h
  simp [memoryFault, hstore, hload, hsystem, hok]

theorem memoryStageCsr_of_no_write {s : State} (staged : CsrFile) (h : s.exBank.csrShouldWrite = false) : memoryStageCsr s staged = staged := by
  rw [memoryStageCsr]
  cases memoryFault s.exBank <;> simp [h]

theorem memoryStageCsr_of_write {s : State} (staged : CsrFile) (hf : memoryFault s.exBank = none) (hs : s.exBank.isSystem = true)
    (hw : s.exBank.csrShouldWrite = true) :
    memoryStageCsr s staged =
      csrWrite s.cfg.mstatusMask staged s.exBank.csrAddress (csrNewValue s.exBank.funct3 (csrOld s.csr s.exBank) s.exBank.csrSource) := by
  simp [memoryStageCsr, hf, hs, hw]

theorem csrNewValue_write {f3 : BitVec 3} (h : f3.extractLsb' 0 2 = 1) (old source : Word) : csrNewValue f3 old source = source := by
  rw [csrNewValue, h]; rfl

theorem csrNewValue_set {f3 : BitVec 3} (h : f3.extractLsb' 0 2 = 2) (old source : Word) : csrNewValue f3 old source = old ||| source := by
  rw [csrNewValue, h]; rfl

theorem csrNewValue_clear {f3 : BitVec 3} (h : f3.extractLsb' 0 2 = 3) (old source : Word) :
    csrNewValue f3 old source = old &&& ~~~source := by
  rw [csrNewValue, h]; rfl

end Sys2Proof.Machine
end

section
/-!
The obligations of 40_pipeline.md: the Fetch slot, the fields of the Decode slot, and the M slot's write-back values and CSR access.
-/
namespace Sys2Proof.Machine

open Sys2Proof

/-- Settles O42: the stage's word is the bus word exactly where the checks of the fetch pass. -/
theorem fetchSlot : Obligations.FetchSlot := by
  intro s h
  have hcheck := accessFault_word_none_iff s.fetchAddress
  refine ⟨fetchHook_of_inSlot h, (fetchStage s).instruction, cycle_fetch h.1 h.2, fun ha hm => ?_, fun hfault => ?_⟩
  · exact fetchStage_instruction_of_ok (hcheck.2 ⟨ha, hm⟩)
  · refine fetchStage_instruction_of_fault fun hok => ?_
    obtain ⟨ha, hm⟩ := hcheck.1 hok
    exact hfault.elim (· ha) (by simp [hm])

/-- Settles O43: with or without an exception, these fields are those of the latch. -/
theorem decodeSlotFields : Obligations.DecodeSlotFields := by
  intro s h
  refine ⟨decodeStage s.ifBank s.regs, cycle_decode h.1 h.2, ?_⟩
  obtain ⟨d, hd⟩ := decodeStage_eq_latch_but_requests s.ifBank s.regs
  rw [hd]
  exact ⟨rfl, rfl, rfl, rfl, rfl, rfl, rfl, rfl, rfl, rfl, rfl, rfl, rfl, rfl,
    csrShouldWrite_eq_false_iff _ _, csrShouldRead_eq_false_iff _ _⟩

/-- Settles O47: with no fault the bank holds `writebackOf`, which the flags of one class reduce to that class's value. -/
theorem memorySlotValues : Obligations.MemorySlotValues := by
  intro s h
  obtain ⟨t, ht, hbank, -⟩ := cycle_memory_staged h
  refine ⟨t, ht, ?_⟩
  rw [hbank]
  refine ⟨memoryStage_rd s, memoryStage_pc s, fun htrap => ?_⟩
  rw [memoryStage_of_ok ((memoryStage_trap_eq_false_iff s).1 htrap)]
  refine ⟨rfl, fun hload => ⟨fun hf => ?_, fun hf => ?_, fun hf => ?_, fun hf => ?_, fun hf => ?_⟩, ?_⟩
  · exact (writebackOf_load hload hf).trans (extendLoaded_eq .byte false _)
  · exact (writebackOf_load hload hf).trans (extendLoaded_eq .half false _)
  · exact writebackOf_load hload hf
  · exact (writebackOf_load hload hf).trans (extendLoaded_eq .byte true _)
  · exact (writebackOf_load hload hf).trans (extendLoaded_eq .half true _)
  · exact ⟨writebackOf_of_signals, writebackOf_of_signals, writebackOf_of_signals, writebackOf_of_signals, writebackOf_of_signals⟩

/-- Settles O49: an access that passes its checks reads the committed bank and writes `csrNewValue`, which `funct3` reduces to one form; a legal
SYSTEM word other than MRET has one of these forms. -/
theorem csrAccessSlot : Obligations.CsrAccessSlot := by
  refine ⟨fun s h hsignals hok => ?_, fun f regs hlegal hsystem hmret => ?_⟩
  · obtain ⟨-, hstore, -, -, -, -, hsystem⟩ := ExecuteBank.signals_eq_iff.1 hsignals
    have hfault := memoryFault_of_csrAccessOk hsignals hok
    obtain ⟨t, ht, hbank, hmem, hcsr⟩ := cycle_memory_staged h
    rw [memoryStage_of_ok hfault] at hbank
    refine ⟨t, ht, ?_, ?_, ?_, fun hw => ?_, fun hw hform => ?_, fun hw hform => ?_, fun hw hform => ?_⟩
    · rw [hbank]
    · rw [hbank]; exact writebackOf_of_signals hsignals
    · rw [hmem, memoryStageMem_of_not_store hstore]
    · rw [hcsr, memoryStageCsr_of_no_write _ hw]
    · rw [hcsr, memoryStageCsr_of_write _ hfault hsystem hw, csrNewValue_write hform]
    · rw [hcsr, memoryStageCsr_of_write _ hfault hsystem hw, csrNewValue_set hform]; rfl
    · rw [hcsr, memoryStageCsr_of_write _ hfault hsystem hw, csrNewValue_clear hform]; rfl
  · have hne : f.instruction ≠ mretWord := beq_eq_false_iff_ne.1 hmret
    refine ⟨csrForm_of_legal hlegal (beq_iff_eq.1 hsystem) hne, fun hform => ?_⟩
    exact Bool.eq_true_of_not_eq_false fun hread => hform ((csrShouldRead_eq_false_iff _ _).1 hread).1

end Sys2Proof.Machine
end

section
/-!
SUPPORT. A CSR read by name: what `csrRead` answers at the address of each named CSR (44_system_csr.md R362, 10_state.md R32).
-/
namespace Sys2Proof.Machine

open Sys2Proof

theorem csrRead_csrAddress (f : CsrFile) (c : Csr) : csrRead f (csrAddress c) = csrValue f c := by
  rw [csrRead, csrAt_csrAddress]

theorem csrRead_of_eq_csrAddress {f : CsrFile} {a : CsrAddr} (c : Csr) (h : a = csrAddress c) : csrRead f a = csrValue f c :=
  h ▸ csrRead_csrAddress f c

theorem csrOld_of_read {f : CsrFile} {x : ExecuteBank} (h : x.csrShouldRead = true) : csrOld f x = csrRead f x.csrAddress := if_pos h

end Sys2Proof.Machine
end

section
/-!
The obligation of 44_system_csr.md: the value a CSR read gives at each of the nineteen addresses.
-/
namespace Sys2Proof.Machine

open Sys2Proof

/-- Settles O48: an access that passes its checks writes back `csrRead` of the committed bank, which is `csrValue` of the CSR named at the address;
with no write, and no store, the M cycle's memory and CSR bank are those of the count alone. -/
theorem csrReadTable : Obligations.CsrReadTable := by
  intro s hslot hsignals hread hok a
  obtain ⟨-, hstore, -, -, -, -, hsystem⟩ := ExecuteBank.signals_eq_iff.1 hsignals
  have hfault := memoryFault_of_csrAccessOk hsignals hok
  have hbank := memoryStage_of_ok hfault
  have hvalue : (memoryStage s).writebackValue = csrRead s.csr a := by
    rw [hbank, ← csrOld_of_read hread]
    exact writebackOf_of_signals hsignals
  refine ⟨_, cycle_memory hslot.1 hslot.2, fun hw => ?_, ?_, ?_, ?_⟩
  · rw [memoryStageMem_of_not_store hstore, memoryStageCsr_of_no_write _ hw]
    rfl
  · exact (memoryStage_trap_eq_false_iff s).2 hfault
  · simp [hbank, writebackValid, hsystem]
  · simp only [hvalue]
    exact ⟨Or.rec (csrRead_of_eq_csrAddress .cycle) (csrRead_of_eq_csrAddress .time), csrRead_of_eq_csrAddress .instret,
      Or.rec (csrRead_of_eq_csrAddress .cycleh) (csrRead_of_eq_csrAddress .timeh), csrRead_of_eq_csrAddress .instreth,
      csrRead_of_eq_csrAddress .mstatus, csrRead_of_eq_csrAddress .misa, csrRead_of_eq_csrAddress .mie,
      csrRead_of_eq_csrAddress .mtvec, csrRead_of_eq_csrAddress .mscratch, csrRead_of_eq_csrAddress .mepc,
      csrRead_of_eq_csrAddress .mcause, csrRead_of_eq_csrAddress .mtval, csrRead_of_eq_csrAddress .mip,
      Or.rec (csrRead_of_eq_csrAddress .mvendorid) (Or.rec (csrRead_of_eq_csrAddress .marchid)
        (Or.rec (csrRead_of_eq_csrAddress .mimpid) (csrRead_of_eq_csrAddress .mhartid)))⟩

end Sys2Proof.Machine
end

section
/-!
SUPPORT. The fault of an M cycle as its bank shows it (40_pipeline.md R241, R248), and when a load's access is misaligned, by `funct3`
(43_load_store.md, 60_exceptions.md R405).
-/
namespace Sys2Proof.Machine

open Sys2Proof

theorem memoryStage_of_fault {s : State} {e : Exn} (h : memoryFault s.exBank = some e) :
    memoryStage s = ⟨0, false, s.exBank.rd, s.exBank.pc, true, causeCode e, s.exBank.pcPlus4, s.exBank.instruction⟩ := by
  simp only [memoryStage, h]

/-- The codes of R401 are distinct. -/
theorem causeCode_inj (e e' : Exn) : causeCode e = causeCode e' ↔ e = e' := by cases e <;> cases e' <;> decide

/-- The staged trap flag and cause name the one exception MemoryAccess found. -/
theorem memoryStage_raises_iff (s : State) (e : Exn) :
    ((memoryStage s).trap = true ∧ (memoryStage s).mcause = causeCode e) ↔ memoryFault s.exBank = some e := by
  cases hf : memoryFault s.exBank with
  | none => simp [memoryStage_of_ok hf]
  | some e' => simp [memoryStage_of_fault hf, causeCode_inj]

/-- Alignment is checked before mapping, so a load's misaligned address raises its own exception whatever the region (R241). -/
theorem memoryFault_loadAddressMisaligned_iff {x : ExecuteBank} (h : x.isLoad = true) :
    memoryFault x = some .loadAddressMisaligned ↔ misaligned (widthOf x.funct3) (accessAddress x) = true := by
  rw [← accessFault_misaligned_iff, memoryFault, h]
  cases accessFault (widthOf x.funct3) (accessAddress x) with
  | none => simp
  | some f => cases f <;> simp

theorem misaligned_half_eq (a : Word) : misaligned .half a = a.getLsbD 0 := by
  have hbit : a.getLsbD 0 = true ↔ a.toNat % 2 = 1 := by simp [BitVec.getLsbD]
  rw [Bool.eq_iff_iff, misaligned_iff, hbit]
  exact Nat.mod_two_ne_zero

/-- The `funct3` of LH and LHU name a half, that of LW a word, those of LB and LBU a byte, which is always aligned (30_encoding.md R154). -/
theorem misaligned_load_iff {f3 : BitVec 3} (hf : f3 = 0 ∨ f3 = 1 ∨ f3 = 2 ∨ f3 = 4 ∨ f3 = 5) (a : Word) :
    misaligned (widthOf f3) a = true ↔
      ((f3 = 1 ∨ f3 = 5) ∧ a.getLsbD 0 = true) ∨ (f3 = 2 ∧ a.extractLsb' 0 2 ≠ 0) := by
  have hhalf : misaligned .half a = true ↔ a.getLsbD 0 = true := by rw [misaligned_half_eq]
  have hword : misaligned .word a = true ↔ a.extractLsb' 0 2 ≠ 0 := bne_iff_ne
  obtain rfl | rfl | rfl | rfl | rfl := hf
  · exact ⟨nofun, by simp⟩
  · exact hhalf.trans (by simp)
  · exact hword.trans (by simp)
  · exact ⟨nofun, by simp⟩
  · exact hhalf.trans (by simp)

end Sys2Proof.Machine
end

section
/-!
SUPPORT. The trap latch across a cycle (60_exceptions.md R416): what the accept of an exception stores in it, that every other cycle keeps it, and
that `SetCsrAndComputeVector` saves it.
-/
namespace Sys2Proof.Machine

open Sys2Proof

variable {s t : State}

theorem latch_of_acceptMemory (h : cycle s = .next t) (hm : s.orch.mode = .pipeline) (hreq : s.memBank.trap = true) :
    t.trBank.latch = s.memBank.context := by
  obtain rfl := Host.Outcome.next.inj ((cycle_acceptMemory hm hreq).symm.trans h)
  rfl

theorem latch_of_acceptDecode (h : cycle s = .next t) (hm : s.orch.mode = .pipeline) (hmem : s.memBank.trap = false)
    (hreq : s.deBank.trap = true) : t.trBank.latch = s.deBank.context := by
  obtain rfl := Host.Outcome.next.inj ((cycle_acceptDecode hm hmem hreq).symm.trans h)
  rfl

/-- Of all the shapes of a cycle, only the two accepts of an exception write the latch, and both need a request in pipeline mode. -/
theorem latch_of_no_exception (h : cycle s = .next t)
    (hno : s.orch.mode = .trap ∨ (s.memBank.trap = false ∧ s.deBank.trap = false)) : t.trBank.latch = s.trBank.latch := by
  cases cycle_shape_of_next h with
  | acceptMemory hm hreq => simp [hm, hreq] at hno
  | acceptDecode hm _ hreq => simp [hm, hreq] at hno
  | acceptMret | fetch | decode | execute | memory | writeBack => rfl
  | idle | setCsr | setProgramCounter | returnFromTrap => rfl

/-- R420: with an unmapped table entry the cycle is FATAL and has no next state. -/
theorem savedContext_of_setCsr (h : cycle s = .next t) (hm : s.orch.mode = .trap) (hst : s.trBank.state = .setCsrAndComputeVector) :
    TrapContext.mk t.csr.mepc t.csr.mcause t.csr.mtval = s.trBank.latch := by
  cases hv : mapped (vectorAddress s.csr.mtvec s.trBank.mcause) with
  | false => cases (cycle_fatal hm hst hv).symm.trans h
  | true =>
    obtain rfl := Host.Outcome.next.inj ((cycle_setCsr hm hst hv).symm.trans h)
    rfl

end Sys2Proof.Machine
end

section
/-!
The obligations of 60_exceptions.md: when LoadAddressMisaligned is raised, the trap latch, and the ReturnFromTrap state.
-/
namespace Sys2Proof.Machine

open Sys2Proof

/-- Settles O50: the bank raises the stage's fault, which for a load is the misalignment of its width. -/
theorem loadAddressMisalignedRaised : Obligations.LoadAddressMisalignedRaised := by
  intro s h hsignals x ea hf
  obtain ⟨-, hstore, hload, -⟩ := ExecuteBank.signals_eq_iff.1 hsignals
  obtain ⟨t, ht, hbank, hmem, -⟩ := cycle_memory_staged h
  have hraised : (t.memBank.trap = true ∧ t.memBank.mcause = 4) ↔ memoryFault x = some .loadAddressMisaligned :=
    hbank ▸ memoryStage_raises_iff s .loadAddressMisaligned
  refine ⟨t, ht, hmem.trans (memoryStageMem_of_not_store hstore), ?_, fun hraise => ?_⟩
  · exact hraised.trans ((memoryFault_loadAddressMisaligned_iff hload).trans (misaligned_load_iff hf ea))
  · rw [hbank, memoryStage_of_fault (hraised.1 hraise)]
    exact ⟨rfl, rfl, rfl⟩

/-- Settles O55: each clause is the law of the latch for its kind of cycle. -/
theorem latchKeepsItsContext : Obligations.LatchKeepsItsContext := by
  intro s t h
  exact ⟨latch_of_acceptMemory h, latch_of_acceptDecode h, latch_of_no_exception h, savedContext_of_setCsr h⟩

/-- Settles O58: the model's law of that state, whose counted cycle is the one the statement writes out. -/
theorem returnFromTrapState : Obligations.ReturnFromTrapState := by
  intro s hm hst
  exact cycle_returnFromTrap hm hst

end Sys2Proof.Machine
end

section
/-!
SUPPORT. The decoder class by class (30_encoding.md R142): which function decodes the words of an opcode, that what it answers encodes to the word,
and which of its answers the hardware admits (R158).
-/
namespace Sys2Proof

section Dispatch

variable {w : Word}

theorem decode_of_opLui (h : opcodeOf w = opLui) : decode w = .ok (.lui (rdOf w) (uImmOf w)) := by simp only [decode, h]; rfl
theorem decode_of_opAuipc (h : opcodeOf w = opAuipc) : decode w = .ok (.auipc (rdOf w) (uImmOf w)) := by simp only [decode, h]; rfl
theorem decode_of_opJal (h : opcodeOf w = opJal) : decode w = .ok (.jal (rdOf w) (jImmOf w)) := by simp only [decode, h]; rfl
theorem decode_of_opJalr (h : opcodeOf w = opJalr) : decode w = decodeJalr w := by simp only [decode, h]; rfl
theorem decode_of_opBranch (h : opcodeOf w = opBranch) : decode w = decodeBranch w := by simp only [decode, h]; rfl
theorem decode_of_opLoad (h : opcodeOf w = opLoad) : decode w = decodeLoad w := by simp only [decode, h]; rfl
theorem decode_of_opStore (h : opcodeOf w = opStore) : decode w = decodeStore w := by simp only [decode, h]; rfl
theorem decode_of_opOpImm (h : opcodeOf w = opOpImm) : decode w = decodeOpImm w := by simp only [decode, h]; rfl
theorem decode_of_opOp (h : opcodeOf w = opOp) : decode w = decodeOp w := by simp only [decode, h]; rfl
theorem decode_of_opSystem (h : opcodeOf w = opSystem) : decode w = decodeSystem w := by simp only [decode, h]; rfl
theorem decode_of_opMiscMem (h : opcodeOf w = opMiscMem) : decode w = decodeMiscMem w := by simp only [decode, h]; rfl

end Dispatch

/-! ## Back from a decoded word to its encoding, class by class -/

theorem funct3_cases (f3 : BitVec 3) :
    f3 = 0b000#3 ∨ f3 = 0b001#3 ∨ f3 = 0b010#3 ∨ f3 = 0b011#3 ∨ f3 = 0b100#3 ∨ f3 = 0b101#3 ∨ f3 = 0b110#3 ∨ f3 = 0b111#3 := by
  revert f3; decide

section Formats

variable {w : Word} {op : BitVec 7} (ho : opcodeOf w = op)
include ho

theorem rWord_of_fields {f7 : BitVec 7} {f3 : BitVec 3} (h7 : funct7Of w = f7) (h3 : funct3Of w = f3) :
    rWord f7 (rs2Of w) (rs1Of w) f3 (rdOf w) op = w := by
  subst ho h7 h3; exact rWord_fields w

theorem iWord_of_fields {f3 : BitVec 3} (h3 : funct3Of w = f3) : iWord (iImmOf w) (rs1Of w) f3 (rdOf w) op = w := by
  subst ho h3; exact iWord_fields w

theorem sWord_of_fields {f3 : BitVec 3} (h3 : funct3Of w = f3) : sWord (sImmOf w) (rs2Of w) (rs1Of w) f3 op = w := by
  subst ho h3; exact sWord_fields w

theorem bWord_of_fields {f3 : BitVec 3} (h3 : funct3Of w = f3) : bWord (bImmOf w) (rs2Of w) (rs1Of w) f3 op = w := by
  subst ho h3; exact bWord_fields w

theorem uWord_of_fields : uWord (uImmOf w) (rdOf w) op = w := by subst ho; exact uWord_fields w

theorem jWord_of_fields : jWord (jImmOf w) (rdOf w) op = w := by subst ho; exact jWord_fields w

end Formats

theorem fenceWord_of_fields {w : Word} (ho : opcodeOf w = opMiscMem) {f3 : BitVec 3} (h3 : funct3Of w = f3) :
    fenceWord (w.extractLsb' 28 4) (w.extractLsb' 24 4) (w.extractLsb' 20 4) (rs1Of w) f3 (rdOf w) = w := by
  subst h3; rw [fenceWord, ← ho]; exact fenceWord_fields w

section EncodeOfDecode

variable {w : Word} {i : Instr}

theorem encode_of_decodeJalr (ho : opcodeOf w = opJalr) (hd : decodeJalr w = .ok i) : encode i = w ∧ i.wf = true := by
  unfold decodeJalr at hd
  split at hd <;> cases hd
  exact ⟨iWord_of_fields ho ‹_›, rfl⟩

theorem encode_of_decodeBranch (ho : opcodeOf w = opBranch) (hd : decodeBranch w = .ok i) : encode i = w ∧ i.wf = true := by
  unfold decodeBranch at hd
  split at hd <;> cases hd <;> exact ⟨bWord_of_fields ho ‹_›, evenOffset_bImmOf w⟩

theorem encode_of_decodeLoad (ho : opcodeOf w = opLoad) (hd : decodeLoad w = .ok i) : encode i = w ∧ i.wf = true := by
  unfold decodeLoad at hd
  split at hd <;> cases hd <;> exact ⟨iWord_of_fields ho ‹_›, rfl⟩

theorem encode_of_decodeStore (ho : opcodeOf w = opStore) (hd : decodeStore w = .ok i) : encode i = w ∧ i.wf = true := by
  unfold decodeStore at hd
  split at hd <;> cases hd <;> exact ⟨sWord_of_fields ho ‹_›, rfl⟩

/-- Outside the two `funct3` values of the shifts, an OP-IMM word has the I format. -/
theorem encode_of_decodeOpImm (ho : opcodeOf w = opOpImm) (hd : decodeOpImm w = .ok i) : encode i = w ∧ i.wf = true := by
  obtain h3 | h3 | h3 | h3 | h3 | h3 | h3 | h3 := funct3_cases (funct3Of w)
  case inr.inl | inr.inr.inr.inr.inr.inl =>
    simp [decodeOpImm, h3] at hd
    repeat' split at hd
    all_goals cases hd
    all_goals rename_i h7; exact ⟨rWord_of_fields ho h7 h3, rfl⟩
  all_goals
    simp only [decodeOpImm, h3] at hd
    cases hd
    exact ⟨iWord_of_fields ho h3, rfl⟩

theorem encode_of_decodeOp (ho : opcodeOf w = opOp) (hd : decodeOp w = .ok i) : encode i = w ∧ i.wf = true := by
  unfold decodeOp at hd
  split at hd <;> rename_i h7
  · obtain h3 | h3 | h3 | h3 | h3 | h3 | h3 | h3 := funct3_cases (funct3Of w)
    all_goals
      simp only [h3] at hd
      cases hd
      exact ⟨rWord_of_fields ho h7 h3, rfl⟩
  · split at hd <;> rename_i h7
    · split at hd <;> cases hd <;> rename_i h3 <;> exact ⟨rWord_of_fields ho h7 h3, rfl⟩
    · cases hd

theorem encode_of_decodeSystem (ho : opcodeOf w = opSystem) (hd : decodeSystem w = .ok i) : encode i = w ∧ i.wf = true := by
  unfold decodeSystem at hd
  split at hd
  case h_7 =>
    repeat' split at hd
    all_goals cases hd
    all_goals exact ⟨‹w = _›.symm, rfl⟩
  all_goals cases hd
  all_goals exact ⟨iWord_of_fields ho ‹_›, rfl⟩

theorem encode_of_decodeMiscMem (ho : opcodeOf w = opMiscMem) (hd : decodeMiscMem w = .ok i) : encode i = w ∧ i.wf = true := by
  unfold decodeMiscMem at hd
  split at hd <;> cases hd <;> exact ⟨fenceWord_of_fields ho ‹_›, rfl⟩

/-- A word that decodes is the encoding of a well-formed instruction. -/
theorem encode_of_decode (hd : decode w = .ok i) : encode i = w ∧ i.wf = true := by
  by_cases ho : opcodeOf w = opLui
  · rw [decode_of_opLui ho] at hd; cases hd; exact ⟨uWord_of_fields ho, rfl⟩
  by_cases ho : opcodeOf w = opAuipc
  · rw [decode_of_opAuipc ho] at hd; cases hd; exact ⟨uWord_of_fields ho, rfl⟩
  by_cases ho : opcodeOf w = opJal
  · rw [decode_of_opJal ho] at hd; cases hd; exact ⟨jWord_of_fields ho, evenOffset_jImmOf w⟩
  by_cases ho : opcodeOf w = opJalr
  · exact encode_of_decodeJalr ho (decode_of_opJalr ho ▸ hd)
  by_cases ho : opcodeOf w = opBranch
  · exact encode_of_decodeBranch ho (decode_of_opBranch ho ▸ hd)
  by_cases ho : opcodeOf w = opLoad
  · exact encode_of_decodeLoad ho (decode_of_opLoad ho ▸ hd)
  by_cases ho : opcodeOf w = opStore
  · exact encode_of_decodeStore ho (decode_of_opStore ho ▸ hd)
  by_cases ho : opcodeOf w = opOpImm
  · exact encode_of_decodeOpImm ho (decode_of_opOpImm ho ▸ hd)
  by_cases ho : opcodeOf w = opOp
  · exact encode_of_decodeOp ho (decode_of_opOp ho ▸ hd)
  by_cases ho : opcodeOf w = opSystem
  · exact encode_of_decodeSystem ho (decode_of_opSystem ho ▸ hd)
  by_cases ho : opcodeOf w = opMiscMem
  · exact encode_of_decodeMiscMem ho (decode_of_opMiscMem ho ▸ hd)
  simp_all [decode]

end EncodeOfDecode

/-- Every encoded word has the fixed bits of its row of the opcode table. -/
theorem encode_and_mask (i : Instr) : encode i &&& i.tableRow.mask = i.tableRow.value := by
  cases i with
  | lui | auipc => exact mask_uWord ..
  | jal => exact mask_jWord ..
  | jalr | lb | lh | lw | lbu | lhu | addi | slti | sltiu | xori | ori | andi | csrrw | csrrs | csrrc | csrrwi | csrrsi | csrrci =>
    exact mask_iWord ..
  | beq | bne | blt | bge | bltu | bgeu => exact mask_bWord ..
  | sb | sh | sw => exact mask_sWord ..
  | slli | srli | srai | add | sub | sll | slt | sltu | xor | srl | sra | or | and => exact mask_rWord ..
  | mret | ecall | ebreak | wfi | sret => rfl
  | fence | fenceI => exact mask_fenceWord ..

/-! ## Which words the hardware admits (R158) -/

/-- A decoder's answer is one of the 44 instructions of R150. -/
def admits : Except DecodeError Instr → Bool
  | .ok i => i.admitted
  | .error _ => false

theorem admits_iff (r : Except DecodeError Instr) : admits r = true ↔ ∃ i, r = .ok i ∧ i.admitted = true := by
  cases r <;> simp [admits]

section Admits

variable {w : Word}

theorem legal_of_opJalr (ho : opcodeOf w = opJalr) : legal w = admits (decodeJalr w) := by
  obtain h3 | h3 | h3 | h3 | h3 | h3 | h3 | h3 := funct3_cases (funct3Of w) <;> simp only [legal, decodeJalr, ho, h3] <;> rfl

theorem legal_of_opBranch (ho : opcodeOf w = opBranch) : legal w = admits (decodeBranch w) := by
  obtain h3 | h3 | h3 | h3 | h3 | h3 | h3 | h3 := funct3_cases (funct3Of w) <;> simp only [legal, decodeBranch, ho, h3] <;> rfl

theorem legal_of_opLoad (ho : opcodeOf w = opLoad) : legal w = admits (decodeLoad w) := by
  obtain h3 | h3 | h3 | h3 | h3 | h3 | h3 | h3 := funct3_cases (funct3Of w) <;> simp only [legal, decodeLoad, ho, h3] <;> rfl

theorem legal_of_opStore (ho : opcodeOf w = opStore) : legal w = admits (decodeStore w) := by
  obtain h3 | h3 | h3 | h3 | h3 | h3 | h3 | h3 := funct3_cases (funct3Of w) <;> simp only [legal, decodeStore, ho, h3] <;> rfl

/-- The OP-IMM words the hardware admits: `funct7` counts in the two shifts alone (R151). -/
theorem legal_opImm_iff (ho : opcodeOf w = opOpImm) :
    legal w = true ↔ (funct3Of w ≠ 0b001#3 ∧ funct3Of w ≠ 0b101#3) ∨ funct7Of w = 0b0000000#7
      ∨ (funct3Of w = 0b101#3 ∧ funct7Of w = 0b0100000#7) := by
  by_cases h1 : funct3Of w = 0b001#3 <;> by_cases h5 : funct3Of w = 0b101#3 <;>
    simp [legal, ho, h1, h5, opLui, opAuipc, opJal, opJalr, opBranch, opLoad, opStore, opOpImm, opOp, opSystem]

/-- The OP words the hardware admits (R152). -/
theorem legal_op_iff (ho : opcodeOf w = opOp) :
    legal w = true ↔ funct7Of w = 0b0000000#7 ∨ (funct7Of w = 0b0100000#7 ∧ (funct3Of w = 0b000#3 ∨ funct3Of w = 0b101#3)) := by
  simp [legal, ho, opLui, opAuipc, opJal, opJalr, opBranch, opLoad, opStore, opOpImm, opOp, opSystem]

theorem legal_of_opOpImm (ho : opcodeOf w = opOpImm) : legal w = admits (decodeOpImm w) := by
  rw [Bool.eq_iff_iff, legal_opImm_iff ho]
  obtain h3 | h3 | h3 | h3 | h3 | h3 | h3 | h3 := funct3_cases (funct3Of w) <;> simp [decodeOpImm, h3]
  case inr.inl => split <;> simp [admits, Instr.admitted, *]
  case inr.inr.inr.inr.inr.inl => split <;> [skip; split] <;> simp [admits, Instr.admitted, *]
  all_goals rfl

theorem legal_of_opOp (ho : opcodeOf w = opOp) : legal w = admits (decodeOp w) := by
  rw [Bool.eq_iff_iff, legal_op_iff ho]
  by_cases h0 : funct7Of w = 0b0000000#7
  · obtain h3 | h3 | h3 | h3 | h3 | h3 | h3 | h3 := funct3_cases (funct3Of w) <;> simp [decodeOp, h0, h3, admits, Instr.admitted]
  by_cases h32 : funct7Of w = 0b0100000#7
  · obtain h3 | h3 | h3 | h3 | h3 | h3 | h3 | h3 := funct3_cases (funct3Of w) <;> simp [decodeOp, h32, h3, admits, Instr.admitted]
  · simp [decodeOp, h0, h32, admits]

/-- Of the SYSTEM words with `funct3 = 000` only MRET is admitted; the other four with a name are not (R156, R160). -/
theorem legal_of_opSystem (ho : opcodeOf w = opSystem) : legal w = admits (decodeSystem w) := by
  rw [Bool.eq_iff_iff, Machine.legal_system_iff ho]
  have hmret : w = mretWord → funct3Of w = 0b000#3 := by rintro rfl; rfl
  obtain h3 | h3 | h3 | h3 | h3 | h3 | h3 | h3 := funct3_cases (funct3Of w) <;> simp [decodeSystem, h3]
  case inl =>
    by_cases hw : w = mretWord
    · simp [hw, admits, Instr.admitted]
    · simp only [hw, if_false, false_iff, Bool.not_eq_true]
      repeat' split
      all_goals rfl
  case inr.inr.inr.inr.inl => exact ⟨fun hw => absurd (h3.symm.trans (hmret hw)) (by decide), nofun⟩
  all_goals rfl

/-- A word of no class is not legal, whether or not it is one of the MISC-MEM rows (R160). -/
theorem legal_eq_admits_decode : legal w = admits (decode w) := by
  by_cases ho : opcodeOf w = opLui
  · rw [decode_of_opLui ho, legal, ho]; rfl
  by_cases ho : opcodeOf w = opAuipc
  · rw [decode_of_opAuipc ho, legal, ho]; rfl
  by_cases ho : opcodeOf w = opJal
  · rw [decode_of_opJal ho, legal, ho]; rfl
  by_cases ho : opcodeOf w = opJalr
  · rw [decode_of_opJalr ho, legal_of_opJalr ho]
  by_cases ho : opcodeOf w = opBranch
  · rw [decode_of_opBranch ho, legal_of_opBranch ho]
  by_cases ho : opcodeOf w = opLoad
  · rw [decode_of_opLoad ho, legal_of_opLoad ho]
  by_cases ho : opcodeOf w = opStore
  · rw [decode_of_opStore ho, legal_of_opStore ho]
  by_cases ho : opcodeOf w = opOpImm
  · rw [decode_of_opOpImm ho, legal_of_opOpImm ho]
  by_cases ho : opcodeOf w = opOp
  · rw [decode_of_opOp ho, legal_of_opOp ho]
  by_cases ho : opcodeOf w = opSystem
  · rw [decode_of_opSystem ho, legal_of_opSystem ho]
  have hlegal : legal w = false := by simp [legal, *]
  rw [hlegal]
  by_cases ho : opcodeOf w = opMiscMem
  · rw [decode_of_opMiscMem ho, decodeMiscMem]
    split <;> rfl
  · simp [decode, admits, *]

end Admits

end Sys2Proof
end

section
/-!
The obligations of 30_encoding.md: both directions of the encoding, the legality predicate, and words written out bit by bit.
-/
namespace Sys2Proof

/-- Settles O26: eleven closed words. -/
theorem decodeWordsRight : Obligations.DecodeWordsRight :=
  ⟨rfl, rfl, rfl, rfl, rfl, rfl, rfl, rfl, rfl, rfl, rfl⟩

/-- Settles O27: the opcode of the encoded word chooses the class, and each field of its format is read back. -/
theorem decodeEncode : Obligations.DecodeEncode := by
  intro i hwf
  cases i with
  | lui | auipc => simp [encode, decode_of_opLui, decode_of_opAuipc]
  | jal rd offset => rw [encode, decode_of_opJal (opcodeOf_jWord ..), rdOf_jWord, jImmOf_jWord offset rd opJal hwf]
  | jalr => rw [encode, decode_of_opJalr (opcodeOf_iWord ..)]; simp [decodeJalr]
  | beq _ _ offset | bne _ _ offset | blt _ _ offset | bge _ _ offset | bltu _ _ offset | bgeu _ _ offset =>
    rw [encode, decode_of_opBranch (opcodeOf_bWord ..)]
    simp [decodeBranch, bImmOf_bWord offset _ _ _ _ hwf]
  | lb | lh | lw | lbu | lhu => rw [encode, decode_of_opLoad (opcodeOf_iWord ..)]; simp [decodeLoad]
  | sb | sh | sw => rw [encode, decode_of_opStore (opcodeOf_sWord ..)]; simp [decodeStore]
  | addi | slti | sltiu | xori | ori | andi => rw [encode, decode_of_opOpImm (opcodeOf_iWord ..)]; simp [decodeOpImm]
  | slli | srli | srai => rw [encode, decode_of_opOpImm (opcodeOf_rWord ..)]; simp [decodeOpImm]
  | add | sub | sll | slt | sltu | xor | srl | sra | or | and =>
    rw [encode, decode_of_opOp (opcodeOf_rWord ..)]; simp [decodeOp]
  | csrrw | csrrs | csrrc | csrrwi | csrrsi | csrrci =>
    rw [encode, decode_of_opSystem (opcodeOf_iWord ..)]; simp [decodeSystem]
  | mret | ecall | ebreak | wfi | sret => rfl
  | fence | fenceI =>
    rw [encode, decode_of_opMiscMem (opcodeOf_fenceWord ..)]
    simp [decodeMiscMem, fenceFields_fenceWord]

/-- Settles O28: each class of words is rebuilt from its fields, and an encoded word has the bits of its row. -/
theorem encodeDecode : Obligations.EncodeDecode := by
  intro w i hd
  obtain ⟨rfl, hwf⟩ := encode_of_decode hd
  exact ⟨rfl, hwf, encode_and_mask i⟩

/-- Settles O29: the legality predicate is, class by class, whether the decoder's answer is admitted. -/
theorem legalIffAdmitted : Obligations.LegalIffAdmitted := by
  intro w
  rw [legal_eq_admits_decode, admits_iff]

end Sys2Proof
end

section
/-!
SUPPORT. The machine's invariant: its clauses about what is stored, apart from its clauses about the control state, and what keeps each. A state in
pipeline mode and a flushed state in trap mode meet the control clauses by the two constructors below (40_pipeline.md R202, R204, 60_exceptions.md R418).
-/
namespace Sys2Proof.Machine

open Sys2Proof

/-- The clauses of `State.Inv` about the parameters, memory, the register file and the CSR bank. -/
structure State.StoredInv (s : State) : Prop where
  cfg_wf : s.cfg.wf = true
  mem_wf : s.mem.wf = true
  mem_within : s.mem.within s.cfg = true
  x0_cell : s.regs[0] = 0
  mstatus_masked : s.csr.mstatus &&& ~~~s.cfg.mstatusMask = 0

theorem State.Inv.stored {s : State} (h : s.Inv) : s.StoredInv :=
  ⟨h.cfg_wf, h.mem_wf, h.mem_within, h.x0_cell, h.mstatus_masked⟩

/-- `mstatus` alone of the CSR bank is in these clauses, so an update of the other fields and of the banks keeps them. -/
theorem State.StoredInv.congr {s t : State} (h : s.StoredInv) (hcfg : t.cfg = s.cfg) (hmem : t.mem = s.mem) (hregs : t.regs = s.regs)
    (hmstatus : t.csr.mstatus = s.csr.mstatus) : t.StoredInv := by
  obtain ⟨h1, h2, h3, h4, h5⟩ := h
  exact ⟨hcfg ▸ h1, hmem ▸ h2, hcfg ▸ hmem ▸ h3, hregs ▸ h4, hcfg ▸ hmstatus ▸ h5⟩

/-- In pipeline mode the clauses about trap mode are void. -/
theorem inv_of_pipeline {t : State} (hs : t.StoredInv) (hmode : t.orch.mode = .pipeline) (hidle : t.trBank.state = .idle)
    (hde : t.deBank.trap = true ∨ t.deBank.mret = true → t.orch.slot = .E) (hmem : t.memBank.trap = true → t.orch.slot = .W)
    (hdeCause : t.deBank.trap = true → hardwareCause t.deBank.mcause = true)
    (hmemCause : t.memBank.trap = true → hardwareCause t.memBank.mcause = true)
    (hflight : t.orch.slot ≠ .F → t.ifBank.pcPlus4 = t.ifBank.pc + 4) : t.Inv where
  cfg_wf := hs.cfg_wf
  mem_wf := hs.mem_wf
  mem_within := hs.mem_within
  x0_cell := hs.x0_cell
  mstatus_masked := hs.mstatus_masked
  mode_idle := iff_of_true hmode hidle
  trap_flushed h := by simp [hmode] at h
  decode_request := hde
  memory_request := hmem
  decode_cause := hdeCause
  memory_cause := hmemCause
  latched_cause h := by simp [hidle] at h
  in_flight := hflight

/-- Between two instructions no request stands. -/
theorem inv_of_fetchSlot {t : State} (hs : t.StoredInv) (hidle : t.trBank.state = .idle) (hslot : t.inSlot .F) : t.Inv := by
  obtain ⟨ho, hmem, htrap, hmret⟩ := hslot
  exact inv_of_pipeline hs (by rw [ho]) hidle (by simp [htrap, hmret]) (by simp [hmem]) (by simp [htrap]) (by simp [hmem]) (by simp [ho])

/-- In trap mode the pipeline is flushed, and the latch holds a hardware cause where the Trap Controller is about to use it. -/
theorem inv_of_trap {t : State} (hs : t.StoredInv) (ho : t.orch = ⟨.trap, .F⟩) (hbusy : t.trBank.state ≠ .idle)
    (hde : t.deBank = DecodeBank.default) (hex : t.exBank = ExecuteBank.default) (hmem : t.memBank = MemoryBank.default)
    (hcause : t.trBank.state = .setCsrAndComputeVector → hardwareCause t.trBank.mcause = true) : t.Inv where
  cfg_wf := hs.cfg_wf
  mem_wf := hs.mem_wf
  mem_within := hs.mem_within
  x0_cell := hs.x0_cell
  mstatus_masked := hs.mstatus_masked
  mode_idle := by simp [ho, hbusy]
  trap_flushed _ := ⟨by rw [ho], hde, hex, hmem⟩
  decode_request := by simp [hde, DecodeBank.default]
  memory_request := by simp [hmem, MemoryBank.default]
  decode_cause := by simp [hde, DecodeBank.default]
  memory_cause := by simp [hmem, MemoryBank.default]
  latched_cause := hcause
  in_flight h := by simp [ho] at h

/-! ## What the stages stage -/

theorem hardwareCause_causeCode (e : Exn) : hardwareCause (causeCode e) = true := by cases e <;> rfl

theorem hardwareCause_decodeStage {f : FetchBank} {regs : RegFile} (h : (decodeStage f regs).trap = true) :
    hardwareCause (decodeStage f regs).mcause = true := by
  unfold decodeStage at h ⊢
  split at h
  · cases h
  · exact hardwareCause_causeCode _

theorem hardwareCause_memoryStage {s : State} (h : (memoryStage s).trap = true) : hardwareCause (memoryStage s).mcause = true := by
  cases hf : memoryFault s.exBank with
  | none => simp [memoryStage_of_ok hf] at h
  | some e => rw [memoryStage_of_fault hf]; exact hardwareCause_causeCode e

/-- The memory an M cycle stages: the old one, or one bus write on it (R243, R248). -/
theorem memoryStageMem_cases (s : State) :
    memoryStageMem s = s.mem ∨
    memoryStageMem s = busWrite s.cfg s.mem (widthOf s.exBank.funct3) (accessAddress s.exBank) s.exBank.rs2 := by
  by_cases hf : memoryFault s.exBank = none
  · cases hst : s.exBank.isStore
    · exact .inl (memoryStageMem_of_not_store hst)
    · exact .inr (memoryStageMem_of_store hst hf)
  · exact .inl (memoryStageMem_of_fault hf)

/-- The CSR bank an M cycle stages: the counted one, or one CSR write on it (R246, R248). -/
theorem memoryStageCsr_cases (s : State) (staged : CsrFile) :
    memoryStageCsr s staged = staged ∨ ∃ a v, memoryStageCsr s staged = csrWrite s.cfg.mstatusMask staged a v := by
  simp only [memoryStageCsr]
  split
  · exact .inl rfl
  · split
    · exact .inr ⟨_, _, rfl⟩
    · exact .inl rfl

theorem writeBackStage_cell_zero (s : State) : (writeBackStage s)[0] = s.regs[0] := by
  unfold writeBackStage
  split
  · exact RegFile.write_cell_zero ..
  · rfl

theorem State.StoredInv.memoryCycle {s t : State} (h : s.StoredInv) (hcfg : t.cfg = s.cfg) (hregs : t.regs = s.regs)
    (hmem : t.mem = memoryStageMem s) (hcsr : t.csr = memoryStageCsr s (s.addCycles 1).csr) : t.StoredInv where
  cfg_wf := hcfg ▸ h.cfg_wf
  mem_wf := by
    rw [hmem]
    obtain he | he := memoryStageMem_cases s <;> rw [he]
    · exact h.mem_wf
    · exact wf_busWrite _ _ _ h.mem_wf
  mem_within := by
    rw [hmem, hcfg]
    obtain he | he := memoryStageMem_cases s <;> rw [he]
    · exact h.mem_within
    · exact within_busWrite _ _ _ h.cfg_wf h.mem_within
  x0_cell := hregs ▸ h.x0_cell
  mstatus_masked := by
    rw [hcsr, hcfg]
    obtain he | ⟨a, v, he⟩ := memoryStageCsr_cases s (s.addCycles 1).csr <;> rw [he]
    · exact h.mstatus_masked
    · exact csrWrite_mstatus_masked a v h.mstatus_masked

/-! ## Instructions -/

theorem State.StoredInv.retire {s : State} (h : s.StoredInv) (i : Instr) (value target : Option Word) : (s.retire i value target).StoredInv :=
  h.congr rfl rfl rfl rfl

theorem State.StoredInv.retireWriting {s : State} (h : s.StoredInv) (i : Instr) (rd : RegIdx) (v : Word) (target : Option Word) :
    (s.retireWriting i rd v target).StoredInv :=
  { h.retire i (some v) target with x0_cell := (RegFile.write_cell_zero ..).trans h.x0_cell }

/-- MRET's word alone stages `mret` (R225). -/
theorem encode_ne_mretWord {i : Instr} (hd : decode (encode i) = .ok i) (hi : i ≠ .mret) : encode i ≠ mretWord :=
  fun he => hi (Except.ok.inj (hd.symm.trans (congrArg decode he)))

theorem inSlot_retire {s : State} {i : Instr} (hs : s.inSlot .F) (hi : encode i ≠ mretWord) (value target : Option Word) :
    (s.retire i value target).inSlot .F :=
  ⟨hs.1, rfl, rfl, beq_eq_false_iff_ne.2 hi⟩

theorem inv_takeTrap {s : State} (h : s.StoredInv) (stage : TrapStage) (e : Exn) (tval : Word) :
    (takeTrap stage (s.trapContext e tval) s).Inv := by
  obtain ⟨-, ht⟩ | ⟨-, ht⟩ := takeTrap_cases stage (s.trapContext e tval) s <;> rw [ht]
  · exact inv_of_fetchSlot (h.congr rfl rfl rfl rfl) rfl ⟨rfl, rfl, rfl, rfl⟩
  · exact inv_of_trap (h.congr rfl rfl rfl rfl) rfl nofun rfl rfl rfl fun _ => hardwareCause_causeCode e

theorem inv_returnFromTrap {s : State} (h : s.StoredInv) : (returnFromTrap s).Inv :=
  inv_of_fetchSlot (h.congr rfl rfl rfl rfl) rfl ⟨rfl, rfl, rfl, rfl⟩

/-- An instruction keeps the invariant, shape by shape. -/
theorem exec_keeps_inv {s t : State} {i : Instr} (h : s.Inv) (hslot : s.inSlot .F) (hd : decode (encode i) = .ok i)
    (ht : exec i s = .next t) : t.Inv := by
  have hs := h.stored
  have hidle : s.trBank.state = .idle := h.mode_idle.1 (by rw [hslot.1])
  by_cases hi : i = .mret
  · subst hi
    obtain rfl := Host.Outcome.next.inj ht
    exact inv_returnFromTrap hs
  have hne := encode_ne_mretWord hd hi
  obtain ⟨u, hu, shape⟩ := exec_shape i s
  obtain rfl := Host.Outcome.next.inj (hu.symm.trans ht)
  cases shape with
  | writing rd v target => exact inv_of_fetchSlot (hs.retireWriting i rd v target) hidle (inSlot_retire hslot hne (some v) target)
  | plain target => exact inv_of_fetchSlot (hs.retire i none target) hidle (inSlot_retire hslot hne none target)
  | storing w ea v =>
    refine inv_of_fetchSlot ?_ hidle (inSlot_retire hslot hne none none)
    exact { hs.retire i none none with
      mem_wf := wf_busWrite w ea v hs.mem_wf
      mem_within := within_busWrite w ea v hs.cfg_wf hs.mem_within }
  | csr rd v a new =>
    refine inv_of_fetchSlot ?_ hidle (inSlot_retire hslot hne (some v) none)
    exact { hs.retireWriting i rd v none with mstatus_masked := csrWrite_mstatus_masked a new hs.mstatus_masked }
  | trapping stage e tval => exact inv_takeTrap hs stage e tval
  | returning hmret => exact absurd hmret hi

end Sys2Proof.Machine
end

section
/-!
The obligations about the invariant: at reset, after boot, after a cycle and after a step.
-/
namespace Sys2Proof.Machine

open Sys2Proof

/-- Settles O30: every bank holds its default, and no byte is listed. -/
theorem resetKeepsInvariant : Obligations.ResetKeepsInvariant :=
  inv_of_fetchSlot ⟨rfl, rfl, rfl, rfl, rfl⟩ rfl ⟨rfl, rfl, rfl, rfl⟩

/-- Settles O31: the two images lie inside their devices, and `mstatus` is masked. -/
theorem bootKeepsInvariant : Obligations.BootKeepsInvariant := by
  intro p s h
  obtain ⟨hcfg, hrom, hram, rfl⟩ := boot_of_ok h
  refine inv_of_fetchSlot ⟨hcfg, ?_, ?_, rfl, ?_⟩ rfl ⟨rfl, rfl, rfl, rfl⟩
  · exact loadWords_wf _ _ (loadWords_wf _ _ rfl)
  · refine loadWords_within (fun k hlo hhi => ?_) (loadWords_within (fun k hlo hhi => ?_) rfl)
    · simp only [existsAt, Bool.or_eq_true, Bool.and_eq_true, decide_eq_true_eq]; omega
    · simp only [existsAt, Bool.or_eq_true, Bool.and_eq_true, decide_eq_true_eq]; omega
  · show p.csrBoot.mstatus.getD 0 &&& p.cfg.mstatusMask &&& ~~~p.cfg.mstatusMask = 0
    rw [BitVec.and_assoc, BitVec.and_not_self]
    exact BitVec.and_zero

/-- Settles O33: each slot of an instruction in flight keeps what the slots before it established; an accept cycle flushes; the Trap Controller's
states keep the pipeline flushed until the last of them gives the slot back to Fetch. -/
theorem cycleKeepsInvariant : Obligations.CycleKeepsInvariant := by
  intro s t h ht
  have hs := h.stored
  cases cycle_shape_of_next ht with
  | acceptMemory _ hreq => exact inv_of_trap (hs.congr rfl rfl rfl rfl) rfl nofun rfl rfl rfl fun _ => h.memory_cause hreq
  | acceptDecode _ _ hreq => exact inv_of_trap (hs.congr rfl rfl rfl rfl) rfl nofun rfl rfl rfl fun _ => h.decode_cause hreq
  | acceptMret => exact inv_of_trap (hs.congr rfl rfl rfl rfl) rfl nofun rfl rfl rfl nofun
  | fetch hslot =>
    obtain ⟨ho, hmem, htrap, hmret⟩ := hslot
    exact inv_of_pipeline (hs.congr rfl rfl rfl rfl) rfl (h.mode_idle.1 (by rw [ho])) (by simp [htrap, hmret]) (by simp [hmem])
      (by simp [htrap]) (by simp [hmem]) fun _ => rfl
  | decode hslot =>
    obtain ⟨ho, hmem, -, -⟩ := hslot
    exact inv_of_pipeline (hs.congr rfl rfl rfl rfl) rfl (h.mode_idle.1 (by rw [ho])) (fun _ => rfl) (by simp [hmem])
      hardwareCause_decodeStage (by simp [hmem]) fun _ => h.in_flight (by simp [ho])
  | execute hslot =>
    obtain ⟨ho, hmem, htrap, hmret⟩ := hslot
    exact inv_of_pipeline (hs.congr rfl rfl rfl rfl) rfl (h.mode_idle.1 (by rw [ho])) (by simp [htrap, hmret]) (by simp [hmem])
      (by simp [htrap]) (by simp [hmem]) fun _ => h.in_flight (by simp [ho])
  | memory hslot =>
    obtain ⟨ho, -, htrap, hmret⟩ := hslot
    exact inv_of_pipeline (hs.memoryCycle rfl rfl rfl rfl) rfl (h.mode_idle.1 (by rw [ho])) (by simp [htrap, hmret]) (fun _ => rfl)
      (by simp [htrap]) hardwareCause_memoryStage fun _ => h.in_flight (by simp [ho])
  | writeBack hslot =>
    obtain ⟨ho, hquiet⟩ := hslot
    have hstored : State.StoredInv { s with regs := writeBackStage s } :=
      { hs with x0_cell := (writeBackStage_cell_zero s).trans hs.x0_cell }
    exact inv_of_fetchSlot (hstored.congr rfl rfl rfl rfl) (h.mode_idle.1 (by rw [ho])) ⟨rfl, hquiet⟩
  | idle hm hidle => exact absurd (h.mode_idle.2 hidle) (by simp [hm])
  | setCsr hm _ _ | returnFromTrap hm _ =>
    obtain ⟨hslot, hde, hex, hmem⟩ := h.trap_flushed hm
    have ho : s.orch = ⟨.trap, .F⟩ := by rw [← hm, ← hslot]
    exact inv_of_trap (hs.congr rfl rfl rfl rfl) ho nofun hde hex hmem nofun
  | setProgramCounter hm _ =>
    obtain ⟨hslot, hde, -, hmem⟩ := h.trap_flushed hm
    exact inv_of_fetchSlot (hs.congr rfl rfl rfl rfl) rfl
      ⟨congrArg (OrchBank.mk .pipeline) hslot, congrArg MemoryBank.trap hmem, congrArg DecodeBank.trap hde, congrArg DecodeBank.mret hde⟩

/-- Settles O32: from a Fetch slot a step is an exception or the decoded instruction, which is its own word's; from any other state it is a cycle. -/
theorem stepKeepsInvariant : Obligations.StepKeepsInvariant := by
  intro s t h ht
  cases hf : s.atFetch with
  | false => exact cycleKeepsInvariant s t h (step_of_not_atFetch hf ▸ ht)
  | true =>
    obtain ⟨e, tval, hstep⟩ | ⟨i, hd, hstep⟩ := step_shape hf
    · obtain rfl := Host.Outcome.next.inj (hstep.symm.trans ht)
      exact inv_takeTrap h.stored .decode e tval
    · obtain ⟨hw, -⟩ := encode_of_decode hd
      exact exec_keeps_inv h ((State.atFetch_iff s).1 hf) (hw ▸ hd) (hstep.symm.trans ht)

end Sys2Proof.Machine
end

section
/-!
SUPPORT. From each shared operation to the words of Safety.lean: the bytes a load reads (20_memory.md R90), what a load, a store and a CSR access that
pass their checks conclude, and the exception of one that does not (43_load_store.md R340, 44_system_csr.md R361).
-/
namespace Sys2Proof.Machine

open Sys2Proof

/-! ## The amount of a register shift, and the two ways of a branch -/

theorem shiftAmount_toNat (v : Word) : (shiftAmount v).toNat = v.toNat % 32 := by
  rw [shiftAmount, BitVec.extractLsb'_toNat, Nat.shiftRight_zero]

theorem goesTo_of_branch {s : State} {i : Instr} {taken : Bool} {offset : BitVec 13} {next : Word} (h : exec i s = .next (s.branch i taken offset))
    (hn : (if taken then s.fetchAddress + offset.signExtend 32 else s.fetchAddress + 4) = next) : GoesTo s i next := by
  refine goesTo_of_retire h (Eq.trans ?_ hn)
  cases taken <;> rfl

/-! ## The bytes of an access -/

theorem region_congr {a b : Word} (h : a.toNat / windowSize = b.toNat / windowSize) : region a = region b := by
  rw [← topNibble, ← topNibble, BitVec.toNat_inj] at h
  rw [region, region, h]

/-- Inside an aligned word, the next byte's home is the next address (R82). -/
theorem homeAddress_add {c : Config} (hc : c.wf = true) {a : Word} {k : Nat} (hk : laneIndex a + k < 4) :
    homeAddress c (a + BitVec.ofNat 32 k) = homeAddress c a + k := by
  have hlt := a.isLt
  have hsum : (a + BitVec.ofNat 32 k).toNat = a.toNat + k := by
    rw [laneIndex] at hk
    rw [BitVec.toNat_add, BitVec.toNat_ofNat]; omega
  have hwindow : (a.toNat + k) / windowSize = a.toNat / windowSize ∧ (a.toNat + k) % windowSize = a.toNat % windowSize + k := by
    rw [laneIndex] at hk
    rw [windowSize]; omega
  rw [homeAddress, homeAddress, hsum, region_congr (b := a) (by rw [hsum, hwindow.1]), hwindow.1, hwindow.2]
  obtain ⟨hd, hpos, -⟩ := deviceSize_spec hc (region a)
  have hmod := Nat.mod_lt (a.toNat % windowSize) hpos
  have hfour := mod_mod_four (x := a.toNat % windowSize) hd
  have hlane : a.toNat % windowSize % 4 = laneIndex a := Nat.mod_mod_of_dvd a.toNat (by decide)
  rw [← Nat.mod_add_mod, Nat.mod_eq_of_lt (by omega)]
  omega

/-- The lanes of the word at an address, from its own lane on, are the bytes from that address on (R90). -/
theorem State.byteAt_add {s : State} (hc : s.cfg.wf = true) {a : Word} {k : Nat} (hk : laneIndex a + k < 4) :
    s.byteAt (a + BitVec.ofNat 32 k) = laneOf (s.wordAt a) (laneIndex a + k) := by
  rw [State.byteAt, State.wordAt, busWord, Memory.laneOf_readWord _ _ hk, homeAddress_add hc hk, homeAddress_eq hc, Nat.add_assoc]

theorem State.byteAt_eq {s : State} (hc : s.cfg.wf = true) (a : Word) : s.byteAt a = laneOf (s.wordAt a) (laneIndex a) := by
  have hbyte := State.byteAt_add (k := 0) hc (a := a) (Nat.mod_lt _ (by decide))
  rwa [show a + BitVec.ofNat 32 0 = a from BitVec.add_zero a] at hbyte

theorem highHalf_eq_lanes (v : Word) : v.extractLsb' 16 16 = laneOf v 0 ++ laneOf v 1 :=
  (BitVec.extractLsb'_append_extractLsb'_eq_extractLsb' (start₁ := 16) (len₁ := 8) (start₂ := 24) (len₂ := 8) rfl).symm

theorem lowHalf_eq_lanes (v : Word) : v.extractLsb' 0 16 = laneOf v 2 ++ laneOf v 3 :=
  (BitVec.extractLsb'_append_extractLsb'_eq_extractLsb' (start₁ := 0) (len₁ := 8) (start₂ := 8) (len₂ := 8) rfl).symm

theorem busRead_byte {s : State} (hc : s.cfg.wf = true) (a : Word) : busRead s.cfg s.mem .byte a = (s.byteAt a).setWidth 32 := by
  rw [State.byteAt_eq hc]; rfl

theorem busRead_half {s : State} (hc : s.cfg.wf = true) {a : Word} (ha : a.toNat % 2 = 0) :
    busRead s.cfg s.mem .half a = (s.byteAt a ++ s.byteAt (a + 1)).setWidth 32 := by
  have hlane : laneIndex a = 0 ∨ laneIndex a = 2 := by rw [laneIndex]; omega
  rw [State.byteAt_eq hc, show a + 1 = a + BitVec.ofNat 32 1 from rfl, State.byteAt_add hc (by omega), busRead]
  obtain h | h := hlane <;> rw [h]
  · rw [← highHalf_eq_lanes]; rfl
  · rw [← lowHalf_eq_lanes]; rfl

theorem busRead_word {s : State} (hc : s.cfg.wf = true) {a : Word} (ha : a.toNat % 4 = 0) :
    busRead s.cfg s.mem .word a = s.byteAt a ++ s.byteAt (a + 1) ++ s.byteAt (a + 2) ++ s.byteAt (a + 3) := by
  have hlane : laneIndex a = 0 := ha
  rw [State.byteAt_eq hc, show a + 1 = a + BitVec.ofNat 32 1 from rfl, show a + 2 = a + BitVec.ofNat 32 2 from rfl,
    show a + 3 = a + BitVec.ofNat 32 3 from rfl, State.byteAt_add hc (by omega), State.byteAt_add hc (by omega),
    State.byteAt_add hc (by omega), hlane]
  exact (wordOfLanes_laneOf _).symm

/-! ## Loads -/

section Load

variable {s : State} {i : Instr} {rd rs1 : RegIdx} {imm : BitVec 12} {w : Width} {unsigned : Bool}
  (h : exec i s = .next (s.load i rd rs1 imm w unsigned))
include h

theorem yields_of_load (ha : (s.effectiveAddress rs1 imm).toNat % w.bytes = 0) (hm : mapped (s.effectiveAddress rs1 imm) = true) {v : Word}
    (hv : extendLoaded w unsigned (busRead s.cfg s.mem w (s.effectiveAddress rs1 imm)) = v) : Yields s i rd v := by
  rw [State.load_of_ok ((aligned_iff w _).2 ha) hm, hv] at h
  exact writes_of_retireWriting h rfl

theorem exec_load_of_misaligned (ha : (s.effectiveAddress rs1 imm).toNat % w.bytes ≠ 0) :
    exec i s = .next (s.memoryTrap i .loadAddressMisaligned) := by
  rw [h, State.load_of_misaligned ((misaligned_iff w _).2 ha)]

theorem exec_load_of_unmapped (ha : (s.effectiveAddress rs1 imm).toNat % w.bytes = 0) (hm : mapped (s.effectiveAddress rs1 imm) = false) :
    exec i s = .next (s.memoryTrap i .loadAccessFault) := by
  rw [h, State.load_of_unmapped ((aligned_iff w _).2 ha) hm]

end Load

/-! ## Stores -/

section Store

variable {s : State} {i : Instr} {rs2 rs1 : RegIdx} {imm : BitVec 12} {w : Width}
  (h : exec i s = .next (s.store i rs2 rs1 imm w))
include h

theorem stores_of_store (hc : s.cfg.wf = true) (hm : s.mem.wf = true) (hr : region (s.effectiveAddress rs1 imm) = .ram)
    (ha : (s.effectiveAddress rs1 imm).toNat % w.bytes = 0) : Stores s i (s.effectiveAddress rs1 imm) w (s.reg rs2) := by
  have haligned := (aligned_iff w _).2 ha
  rw [State.store_of_ok haligned ((mapped_iff _).2 (.inr hr))] at h
  exact ⟨_, h, ⟨fun _ => rfl, State.fetchAddress_retire s i none none, rfl, rfl, rfl, rfl⟩, read_busWrite_ram _ hc hm hr haligned⟩

/-- A store to ROM is dropped (20_memory.md R87). -/
theorem goesTo_of_store_rom (hr : region (s.effectiveAddress rs1 imm) = .rom) (ha : (s.effectiveAddress rs1 imm).toNat % w.bytes = 0) :
    GoesTo s i (s.fetchAddress + 4) := by
  rw [State.store_of_ok ((aligned_iff w _).2 ha) ((mapped_iff _).2 (.inl hr)), busWrite_rom hr] at h
  exact goesTo_of_retire (target := none) h rfl

theorem exec_store_of_misaligned (ha : (s.effectiveAddress rs1 imm).toNat % w.bytes ≠ 0) :
    exec i s = .next (s.memoryTrap i .storeAMOAddressMisaligned) := by
  rw [h, State.store_of_misaligned ((misaligned_iff w _).2 ha)]

theorem exec_store_of_unmapped (ha : (s.effectiveAddress rs1 imm).toNat % w.bytes = 0) (hm : mapped (s.effectiveAddress rs1 imm) = false) :
    exec i s = .next (s.memoryTrap i .storeAMOAccessFault) := by
  rw [h, State.store_of_unmapped ((aligned_iff w _).2 ha) hm]

end Store

/-! ## CSRs -/

theorem csrAddress_of_csrAt {a : CsrAddr} {c : Csr} (h : csrAt a = some c) : csrAddress c = a := by
  unfold csrAt at h
  split at h <;> cases h <;> rfl

/-- An address that names no CSR, or a write of a read-only one, fails the checks (R361). -/
theorem csrAccessOk_eq_false {a : CsrAddr} {write : Bool} (h : (∀ c : Csr, csrAddress c ≠ a) ∨ (csrReadOnly a = true ∧ write = true)) :
    csrAccessOk a write = false := by
  rw [← Bool.not_eq_true, csrAccessOk_iff]
  rintro ⟨hsome, hwrite⟩
  obtain hnone | ⟨hreadOnly, hw⟩ := h
  · obtain ⟨c, hc⟩ := Option.isSome_iff_exists.1 hsome
    exact hnone c (csrAddress_of_csrAt hc)
  · simp [hwrite hw] at hreadOnly

theorem csrAccessOk_csrAddress {c : Csr} {write : Bool} (h : write = true → csrReadOnly (csrAddress c) = false) :
    csrAccessOk (csrAddress c) write = true :=
  (csrAccessOk_iff _ _).2 ⟨by rw [csrAt_csrAddress]; rfl, h⟩

theorem csrWrite_csrAddress (mask : Word) (f : CsrFile) (c : Csr) (v : Word) : csrWrite mask f (csrAddress c) v = csrStore mask f v c := by
  rw [csrWrite, csrAt_csrAddress]

/-- Only the read-only addresses name the counters (10_state.md R32, R33). -/
theorem csrValue_of_writable {c : Csr} (h : csrReadOnly (csrAddress c) = false) (f : CsrFile) (n : BitVec 64) :
    csrValue { f with cycles := n } c = csrValue f c := by
  cases c with
  | cycle | time | cycleh | timeh => exact absurd h (by decide)
  | instret | instreth | mvendorid | marchid | mimpid | mhartid => rfl
  | mstatus | misa | mie | mtvec | mscratch | mepc | mcause | mtval | mip => rfl

/-- Every CSR after a write of a writable one (R363). -/
theorem csrValue_csrStore {c : Csr} (h : csrReadOnly (csrAddress c) = false) (mask : Word) (f : CsrFile) (v : Word) (d : Csr) :
    csrValue (csrStore mask f v c) d = if d = c then (if c = .mstatus then v &&& mask else v) else csrValue f d := by
  cases c with
  | cycle | time | cycleh | timeh | instret | instreth | mvendorid | marchid | mimpid | mhartid => exact absurd h (by decide)
  | mstatus | misa | mie | mtvec | mscratch | mepc | mcause | mtval | mip => cases d <;> rfl

section CsrAccess

variable {s : State} {i : Instr} {rd : RegIdx} {c : Csr} {read write : Bool} {new : Word → Word}
  (h : exec i s = .next (s.csrAccess i rd (csrAddress c) read write new))
include h

/-- An access that passes its checks: the old value to `x[rd]`, which a form that does not read has only where `rd` is `x0`. -/
theorem accessesCsr_of_ok (hok : csrAccessOk (csrAddress c) write = true) (hread : read = false → rd = 0) {old : Word}
    (hold : csrValue s.csrInMemoryCycle c = old) {f : CsrFile}
    (hf : f = if write then
        csrStore s.cfg.mstatusMask (countedCsr s.csr) (new (if read then old else 0)) c
      else countedCsr s.csr) : AccessesCsr s i rd old f := by
  rw [State.csrAccess_of_ok hok, csrRead_csrAddress, hold] at h
  refine ⟨_, h, ⟨fun r => ?_, State.fetchAddress_retireWriting s i rd (if read then old else 0) none, ?_, rfl, rfl, rfl⟩, fun _ => rfl⟩
  · rw [State.reg_eq]
    refine (RegFile.read_write s.regs rd r (if read then old else 0)).trans ?_
    cases read with
    | true => rfl
    | false =>
      rw [hread rfl, if_neg fun hr => hr.2 hr.1, if_neg fun hr => hr.2 hr.1]; rfl
  · rw [hf]
    exact if_congr Iff.rfl (csrWrite_csrAddress ..) rfl

end CsrAccess

theorem exec_csrAccess_of_bad {s : State} {i : Instr} {rd : RegIdx} {a : CsrAddr} {read write : Bool} {new : Word → Word}
    (h : exec i s = .next (s.csrAccess i rd a read write new))
    (hbad : (∀ c : Csr, csrAddress c ≠ a) ∨ (csrReadOnly a = true ∧ write = true)) :
    exec i s = .next (s.memoryTrap i .illegalInstruction) := by
  rw [h, State.csrAccess_of_bad (csrAccessOk_eq_false hbad)]

end Sys2Proof.Machine
end

section
/-!
The obligations about single instructions: 41_integer_computational.md, 42_control_transfer.md, 43_load_store.md and 44_system_csr.md.
-/
namespace Sys2Proof.Machine

open Sys2Proof

/-- Settles O3. -/
theorem upperImmediateResults : Obligations.UpperImmediateResults := by
  intro s rd imm
  exact ⟨writes_of_retireWriting rfl rfl, writes_of_retireWriting rfl rfl⟩

/-- Settles O4. -/
theorem registerImmediateResults : Obligations.RegisterImmediateResults := by
  intro s rd rs1 imm
  exact ⟨writes_of_retireWriting rfl rfl, writes_of_retireWriting rfl rfl, writes_of_retireWriting rfl rfl, writes_of_retireWriting rfl rfl,
    writes_of_retireWriting rfl rfl, writes_of_retireWriting rfl rfl⟩

/-- Settles O5. -/
theorem immediateShiftResults : Obligations.ImmediateShiftResults := by
  intro s rd rs1 shamt
  exact ⟨writes_of_retireWriting rfl rfl, writes_of_retireWriting rfl rfl, writes_of_retireWriting rfl rfl⟩

/-- Settles O6. -/
theorem registerRegisterResults : Obligations.RegisterRegisterResults := by
  intro s rd rs1 rs2
  exact ⟨writes_of_retireWriting rfl rfl, writes_of_retireWriting rfl rfl, writes_of_retireWriting rfl rfl, writes_of_retireWriting rfl rfl,
    writes_of_retireWriting rfl rfl, writes_of_retireWriting rfl rfl, writes_of_retireWriting rfl rfl⟩

/-- Settles O7: the amount is the low five bits as a number. -/
theorem registerShiftResults : Obligations.RegisterShiftResults := by
  intro s rd rs1 rs2 n
  rw [show n = (shiftAmount (s.reg rs2)).toNat from (shiftAmount_toNat _).symm]
  exact ⟨writes_of_retireWriting rfl rfl, writes_of_retireWriting rfl rfl, writes_of_retireWriting rfl rfl⟩

/-- Settles O8. -/
theorem jumpResults : Obligations.JumpResults := by
  intro s rd rs1 offset imm
  exact ⟨writes_of_retireWriting rfl rfl, writes_of_retireWriting rfl rfl⟩

/-- Settles O9: BEQ, BLT and BLTU go on at the target where the comparison holds, the other three where it does not. -/
theorem branchResults : Obligations.BranchResults := by
  intro s rs1 rs2 offset a b target sequential
  have hnot (x : Bool) : (if !x then target else sequential) = if x then sequential else target := by cases x <;> rfl
  refine ⟨goesTo_of_branch rfl ?_, goesTo_of_branch rfl ?_, goesTo_of_branch rfl rfl, goesTo_of_branch rfl (hnot _), goesTo_of_branch rfl rfl,
    goesTo_of_branch rfl (hnot _)⟩
  · exact if_congr beq_iff_eq rfl rfl
  · exact (hnot (a == b)).trans (if_congr beq_iff_eq rfl rfl)

/-- Settles O10: the selected lanes are the bytes at the address. -/
theorem loadResults : Obligations.LoadResults := by
  intro s rd rs1 imm ea hc hm
  have hbyte (unsigned : Bool) := (congrArg (extendLoaded .byte unsigned) (busRead_byte hc ea)).trans (extendLoaded_byte unsigned _)
  refine ⟨yields_of_load rfl (Nat.mod_one _) hm (hbyte false), yields_of_load rfl (Nat.mod_one _) hm (hbyte true), fun ha => ?_, fun ha => ?_⟩
  · have hhalf (unsigned : Bool) := (congrArg (extendLoaded .half unsigned) (busRead_half hc ha)).trans (extendLoaded_half unsigned _)
    exact ⟨yields_of_load rfl ha hm (hhalf false), yields_of_load rfl ha hm (hhalf true)⟩
  · exact yields_of_load (w := .word) (unsigned := false) rfl ha hm (busRead_word hc ha)

/-- Settles O11. -/
theorem loadTraps : Obligations.LoadTraps := by
  intro s rd rs1 imm ea
  refine ⟨fun hv ha => ?_, fun hv ha => ?_, fun hv hm => ⟨?_, ?_, fun ha => ?_, fun ha => ?_⟩⟩
  · have hodd : ea.toNat % 2 ≠ 0 := by omega
    exact ⟨raises_of_takeTrap (exec_load_of_misaligned rfl hodd) hv, raises_of_takeTrap (exec_load_of_misaligned rfl hodd) hv⟩
  · exact raises_of_takeTrap (exec_load_of_misaligned rfl ha) hv
  · exact raises_of_takeTrap (exec_load_of_unmapped rfl (Nat.mod_one _) hm) hv
  · exact raises_of_takeTrap (exec_load_of_unmapped rfl (Nat.mod_one _) hm) hv
  · exact ⟨raises_of_takeTrap (exec_load_of_unmapped rfl ha hm) hv, raises_of_takeTrap (exec_load_of_unmapped rfl ha hm) hv⟩
  · exact raises_of_takeTrap (exec_load_of_unmapped rfl ha hm) hv

/-- Settles O12. -/
theorem storeResults : Obligations.StoreResults := by
  intro s rs2 rs1 imm ea hc hm hr
  exact ⟨stores_of_store rfl hc hm hr (Nat.mod_one _), stores_of_store (w := .half) rfl hc hm hr, stores_of_store (w := .word) rfl hc hm hr⟩

/-- Settles O13. -/
theorem storeToRomIsIgnored : Obligations.StoreToRomIsIgnored := by
  intro s rs2 rs1 imm ea hr
  exact ⟨goesTo_of_store_rom rfl hr (Nat.mod_one _), goesTo_of_store_rom (w := .half) rfl hr, goesTo_of_store_rom (w := .word) rfl hr⟩

/-- Settles O14. -/
theorem storeTraps : Obligations.StoreTraps := by
  intro s rs2 rs1 imm ea
  refine ⟨fun hv ha => ?_, fun hv ha => ?_, fun hv hm => ⟨?_, fun ha => ?_, fun ha => ?_⟩⟩
  · have hodd : ea.toNat % 2 ≠ 0 := by omega
    exact raises_of_takeTrap (exec_store_of_misaligned rfl hodd) hv
  · exact raises_of_takeTrap (exec_store_of_misaligned rfl ha) hv
  · exact raises_of_takeTrap (exec_store_of_unmapped rfl (Nat.mod_one _) hm) hv
  · exact raises_of_takeTrap (exec_store_of_unmapped rfl ha hm) hv
  · exact raises_of_takeTrap (exec_store_of_unmapped rfl ha hm) hv

/-- Settles O15: a writable CSR is no counter, so its old value does not depend on the cycle that reads it. -/
theorem csrReadWriteResults : Obligations.CsrReadWriteResults := by
  intro s rd rs1 uimm c hw
  have hok : csrAccessOk (csrAddress c) true = true := csrAccessOk_csrAddress fun _ => hw
  have hread : (rd != 0) = false → rd = 0 := by simp
  have hold := csrValue_of_writable hw s.csr (s.csr.cycles + 3)
  exact ⟨accessesCsr_of_ok rfl hok hread hold rfl, accessesCsr_of_ok rfl hok hread hold rfl⟩

/-- Settles O16: a zero field is a read alone, any other a write too. -/
theorem csrSetClearResults : Obligations.CsrSetClearResults := by
  intro s rd c a old stored
  have hread : csrAccessOk a false = true := csrAccessOk_csrAddress nofun
  refine ⟨?_, ?_, ?_, ?_, fun field hfield hw => ?_⟩
  · exact accessesCsr_of_ok (read := true) rfl hread nofun rfl rfl
  · exact accessesCsr_of_ok (read := true) rfl hread nofun rfl rfl
  · exact accessesCsr_of_ok (read := true) rfl hread nofun rfl rfl
  · exact accessesCsr_of_ok (read := true) rfl hread nofun rfl rfl
  · have hwrite : (field != 0) = true := bne_iff_ne.2 hfield
    have hok : csrAccessOk a (field != 0) = true := csrAccessOk_csrAddress fun _ => hw
    have hf (v : Word) : stored v = if (field != 0) = true then csrStore s.cfg.mstatusMask (countedCsr s.csr) v c else countedCsr s.csr :=
      (if_pos hwrite).symm
    exact ⟨accessesCsr_of_ok (read := true) rfl hok nofun rfl (hf _), accessesCsr_of_ok (read := true) rfl hok nofun rfl (hf _),
      accessesCsr_of_ok (read := true) rfl hok nofun rfl (hf _), accessesCsr_of_ok (read := true) rfl hok nofun rfl (hf _)⟩

/-- Settles O17. -/
theorem csrTraps : Obligations.CsrTraps := by
  intro s rd a field hv
  refine ⟨fun hbad => ?_, fun hbad => ?_⟩
  · replace hbad := hbad.imp_right fun hr => And.intro hr (rfl : true = true)
    exact ⟨raises_of_takeTrap (exec_csrAccess_of_bad rfl hbad) hv, raises_of_takeTrap (exec_csrAccess_of_bad rfl hbad) hv⟩
  · replace hbad := hbad.imp_right (And.imp_right bne_iff_ne.2)
    exact ⟨raises_of_takeTrap (exec_csrAccess_of_bad rfl hbad) hv, raises_of_takeTrap (exec_csrAccess_of_bad rfl hbad) hv,
      raises_of_takeTrap (exec_csrAccess_of_bad rfl hbad) hv, raises_of_takeTrap (exec_csrAccess_of_bad rfl hbad) hv⟩

/-- Settles O18. -/
theorem csrWriteIsReadBack : Obligations.CsrWriteIsReadBack := by
  intro mask f v c d hw
  rw [csrWrite_csrAddress, csrRead_csrAddress, csrRead_csrAddress, csrRead_csrAddress, csrValue_csrStore hw, csrValue_csrStore hw, if_pos rfl]
  exact ⟨rfl, fun hd => if_neg hd⟩

/-- Settles O19. -/
theorem mretResult : Obligations.MretResult := by
  intro s
  exact ⟨returnFromTrap s, rfl, rfl, rfl, fun _ => rfl, fun _ => rfl, rfl, rfl, rfl⟩

/-- Settles O20. -/
theorem unadmittedInstructions : Obligations.UnadmittedInstructions := by
  intro s fm pred succ rs1 rd hv
  have hraise (i : Instr) (h : exec i s = .next (s.decodeTrap i)) : Raises s i 5 2 (encode i) := raises_of_takeTrap h hv
  exact ⟨hraise _ rfl, hraise _ rfl, hraise _ rfl, hraise _ rfl, hraise _ rfl, hraise _ rfl⟩

end Sys2Proof.Machine
end

section
/-!
SUPPORT. One step and one cycle as outcomes: what a step is at a good fetch address, at a bad one and on a word that is not legal (60_exceptions.md
R402 to R404), what stops the machine (R428), and which steps leave it FATAL-bound.
-/
namespace Sys2Proof.Machine

open Sys2Proof

section Fetch

variable {s : State} (hf : s.atFetch = true)
include hf

theorem step_of_fetched (ha : s.fetchAddress.toNat % 4 = 0) (hm : mapped s.fetchAddress = true) :
    step s = runWord (s.wordAt s.fetchAddress) s := by
  have hok := (accessFault_word_none_iff s.fetchAddress).2 ⟨ha, hm⟩
  simp only [step, hf, if_true, runInstruction, State.fetch, hok]

theorem step_of_misaligned_fetch (ha : s.fetchAddress.toNat % 4 ≠ 0) :
    step s = .next (takeTrap .decode (s.trapContext .instructionAddressMisaligned s.fetchAddress) s) := by
  have hbad := (accessFault_misaligned_iff .word s.fetchAddress).2 ((misaligned_iff .word _).2 ha)
  simp only [step, hf, if_true, runInstruction, State.fetch, hbad]

theorem step_of_unmapped_fetch (ha : s.fetchAddress.toNat % 4 = 0) (hm : mapped s.fetchAddress = false) :
    step s = .next (takeTrap .decode (s.trapContext .instructionAccessFault s.fetchAddress) s) := by
  have hbad := (accessFault_unmapped_iff .word s.fetchAddress).2 ⟨(aligned_iff .word _).2 ha, hm⟩
  simp only [step, hf, if_true, runInstruction, State.fetch, hbad]

end Fetch

/-- The six rows of R160 have one meaning. -/
theorem exec_of_not_admitted {i : Instr} (h : i.admitted = false) (s : State) : exec i s = .next (s.decodeTrap i) := by
  cases i with
  | ecall | ebreak | wfi | sret | fence | fenceI => rfl
  | _ => cases h

/-- A word that is not legal takes IllegalInstruction, whether or not it has a name (30_encoding.md R158, R160). -/
theorem runWord_of_not_legal {w : Word} (h : legal w = false) (s : State) : runWord w s = .next (illegalInstruction w s) := by
  rw [legal_eq_admits_decode] at h
  cases hd : decode w with
  | error => simp only [runWord, hd]
  | ok i =>
    obtain ⟨rfl, -⟩ := encode_of_decode hd
    rw [hd] at h
    simp only [runWord, hd]
    exact exec_of_not_admitted h s

theorem step_of_not_legal {s : State} (hf : s.atFetch = true) (ha : s.fetchAddress.toNat % 4 = 0) (hm : mapped s.fetchAddress = true)
    (hl : legal (s.wordAt s.fetchAddress) = false) :
    step s = .next (takeTrap .decode (s.trapContext .illegalInstruction (s.wordAt s.fetchAddress)) s) :=
  (step_of_fetched hf ha hm).trans (runWord_of_not_legal hl s)

/-! ## What stops the machine -/

theorem step_next_of_atFetch {s : State} (hf : s.atFetch = true) : ∃ t, step s = .next t := by
  obtain ⟨e, tval, h⟩ | ⟨i, -, h⟩ := step_shape hf
  · exact ⟨_, h⟩
  · obtain ⟨t, ht, -⟩ := exec_shape i s
    exact ⟨t, h.trans ht⟩

theorem cycle_fault_iff (s : State) : cycle s = .fault .fatalVectorRead ↔ s.fatalNext := by
  refine ⟨fun h => ?_, fun ⟨hm, ht, hv⟩ => cycle_fatal hm ht hv⟩
  obtain ⟨t, ht, -⟩ | ⟨-, hfatal⟩ := cycle_shape s
  · cases ht.symm.trans h
  · exact hfatal

theorem cycle_ne_refused (s : State) (r : Refusal) : cycle s ≠ .refused r := by
  intro h
  obtain ⟨t, ht, -⟩ | ⟨hfault, -⟩ := cycle_shape s
  · cases ht.symm.trans h
  · cases hfault.symm.trans h

/-- Only an exception whose vector entry cannot be read leaves trap mode behind: every other shape of a step from a Fetch slot is in pipeline mode. -/
theorem undelivered_of_takeTrap_fatalNext {s : State} {stage : TrapStage} {e : Exn} {tval : Word}
    (h : (takeTrap stage (s.trapContext e tval) s).fatalNext) :
    vectorReadable s (causeCode e) = false
      ∧ Undelivered s (takeTrap stage (s.trapContext e tval) s) (acceptedAfter stage) (causeCode e) tval := by
  have hv : vectorReadable s (causeCode e) = false := by
    cases hv : vectorReadable s (causeCode e) with
    | false => rfl
    | true =>
      rw [takeTrap_of_mapped stage (s.trapContext e tval) s hv] at h
      cases h.1
  exact ⟨hv, undelivered_takeTrap stage e tval hv⟩

theorem takeTrap_of_exec_fatalNext {s t : State} {i : Instr} (hm : s.orch.mode = .pipeline) (h : exec i s = .next t) (hfatal : t.fatalNext) :
    ∃ stage e tval, t = takeTrap stage (s.trapContext e tval) s := by
  obtain ⟨u, hu, shape⟩ := exec_shape i s
  obtain rfl := Host.Outcome.next.inj (hu.symm.trans h)
  cases shape with
  | writing | plain | storing | csr => cases hm.symm.trans hfatal.1
  | trapping stage e tval => exact ⟨stage, e, tval, rfl⟩
  | returning => cases hfatal.1

theorem takeTrap_of_step_fatalNext {s t : State} (hf : s.atFetch = true) (h : step s = .next t) (hfatal : t.fatalNext) :
    ∃ stage e tval, t = takeTrap stage (s.trapContext e tval) s := by
  obtain ⟨e, tval, hstep⟩ | ⟨i, -, hstep⟩ := step_shape hf
  · exact ⟨.decode, e, tval, (Host.Outcome.next.inj (hstep.symm.trans h)).symm⟩
  · exact takeTrap_of_exec_fatalNext (by rw [((State.atFetch_iff s).1 hf).1]) (hstep.symm.trans h) hfatal

theorem acceptedAfter_cases (stage : TrapStage) : acceptedAfter stage = 3 ∨ acceptedAfter stage = 5 := by
  cases stage
  · exact .inl rfl
  · exact .inr rfl

end Sys2Proof.Machine
end

section
/-!
The obligations about one step: what it runs, the exceptions of the fetch and of an illegal word, and the one stop.
-/
namespace Sys2Proof.Machine

open Sys2Proof

/-- Settles O21. -/
theorem stepRunsTheDecodedInstruction : Obligations.StepRunsTheDecodedInstruction := by
  intro s i
  refine ⟨fun hf ha hm hd => ?_, step_of_not_atFetch⟩
  rw [step_of_fetched hf ha hm, runWord, hd]

/-- Settles O22. -/
theorem fetchFaultTraps : Obligations.FetchFaultTraps := by
  intro s hf
  exact ⟨fun ha hv => ⟨_, step_of_misaligned_fetch hf ha, delivered_takeTrap .decode .instructionAddressMisaligned _ hv⟩,
    fun ha hm hv => ⟨_, step_of_unmapped_fetch hf ha hm, delivered_takeTrap .decode .instructionAccessFault _ hv⟩⟩

/-- Settles O23. -/
theorem illegalWordTraps : Obligations.IllegalWordTraps := by
  intro s hf ha hm hl hv
  exact ⟨_, step_of_not_legal hf ha hm hl, delivered_takeTrap .decode .illegalInstruction _ hv⟩

/-- Settles O24: a step from a Fetch slot always answers a next state, and there no vector is about to be read. -/
theorem onlyFatalStops : Obligations.OnlyFatalStops := by
  intro s
  refine ⟨⟨fun h => ?_, step_fatal⟩, cycle_fault_iff s, fun r => ⟨fun h => ?_, cycle_ne_refused s r⟩⟩ <;> cases hf : s.atFetch
  · exact (cycle_fault_iff s).1 (step_of_not_atFetch hf ▸ h)
  · obtain ⟨t, ht⟩ := step_next_of_atFetch hf
    cases ht.symm.trans h
  · exact cycle_ne_refused s r (step_of_not_atFetch hf ▸ h)
  · obtain ⟨t, ht⟩ := step_next_of_atFetch hf
    cases ht.symm.trans h

/-- Settles O25, group by group: loads, stores, CSR accesses, the rows not admitted, the fetch and its word, and the converse. -/
theorem undeliveredException : Obligations.UndeliveredException := by
  refine ⟨?loads, ?stores, ?csrs, ?rows, ?fetches, ?converse⟩
  case loads =>
    intro s rd rs1 imm ea
    refine ⟨fun hv ha => ?_, fun hv ha => ?_, fun hv hm => ⟨?_, ?_, fun ha => ?_, fun ha => ?_⟩⟩
    · have hodd : ea.toNat % 2 ≠ 0 := by omega
      exact ⟨strands_of_takeTrap (exec_load_of_misaligned rfl hodd) hv, strands_of_takeTrap (exec_load_of_misaligned rfl hodd) hv⟩
    · exact strands_of_takeTrap (exec_load_of_misaligned rfl ha) hv
    · exact strands_of_takeTrap (exec_load_of_unmapped rfl (Nat.mod_one _) hm) hv
    · exact strands_of_takeTrap (exec_load_of_unmapped rfl (Nat.mod_one _) hm) hv
    · exact ⟨strands_of_takeTrap (exec_load_of_unmapped rfl ha hm) hv, strands_of_takeTrap (exec_load_of_unmapped rfl ha hm) hv⟩
    · exact strands_of_takeTrap (exec_load_of_unmapped rfl ha hm) hv
  case stores =>
    intro s rs2 rs1 imm ea
    refine ⟨fun hv ha => ?_, fun hv ha => ?_, fun hv hm => ⟨?_, fun ha => ?_, fun ha => ?_⟩⟩
    · have hodd : ea.toNat % 2 ≠ 0 := by omega
      exact strands_of_takeTrap (exec_store_of_misaligned rfl hodd) hv
    · exact strands_of_takeTrap (exec_store_of_misaligned rfl ha) hv
    · exact strands_of_takeTrap (exec_store_of_unmapped rfl (Nat.mod_one _) hm) hv
    · exact strands_of_takeTrap (exec_store_of_unmapped rfl ha hm) hv
    · exact strands_of_takeTrap (exec_store_of_unmapped rfl ha hm) hv
  case csrs =>
    intro s rd a field hv
    refine ⟨fun hbad => ?_, fun hbad => ?_⟩
    · replace hbad := hbad.imp_right fun hr => And.intro hr (rfl : true = true)
      exact ⟨strands_of_takeTrap (exec_csrAccess_of_bad rfl hbad) hv, strands_of_takeTrap (exec_csrAccess_of_bad rfl hbad) hv⟩
    · replace hbad := hbad.imp_right (And.imp_right bne_iff_ne.2)
      exact ⟨strands_of_takeTrap (exec_csrAccess_of_bad rfl hbad) hv, strands_of_takeTrap (exec_csrAccess_of_bad rfl hbad) hv,
        strands_of_takeTrap (exec_csrAccess_of_bad rfl hbad) hv, strands_of_takeTrap (exec_csrAccess_of_bad rfl hbad) hv⟩
  case rows =>
    intro s fm pred succ rs1 rd hv
    have hstrand (i : Instr) (h : exec i s = .next (s.decodeTrap i)) : Strands s i 3 2 (encode i) := strands_of_takeTrap h hv
    exact ⟨hstrand _ rfl, hstrand _ rfl, hstrand _ rfl, hstrand _ rfl, hstrand _ rfl, hstrand _ rfl⟩
  case fetches =>
    intro s hf fa
    exact ⟨fun ha hv => ⟨_, step_of_misaligned_fetch hf ha, undelivered_takeTrap .decode .instructionAddressMisaligned _ hv⟩,
      fun ha hm hv => ⟨_, step_of_unmapped_fetch hf ha hm, undelivered_takeTrap .decode .instructionAccessFault _ hv⟩,
      fun ha hm hl hv => ⟨_, step_of_not_legal hf ha hm hl, undelivered_takeTrap .decode .illegalInstruction _ hv⟩⟩
  case converse =>
    intro s t hf h hfatal
    obtain ⟨stage, e, tval, rfl⟩ := takeTrap_of_step_fatalNext hf h hfatal
    obtain ⟨hv, hu⟩ := undelivered_of_takeTrap_fatalNext hfatal
    obtain ⟨-, -, htr, -⟩ := id hu
    rw [htr]
    exact ⟨hardwareCause_causeCode e, hv, acceptedAfter stage, acceptedAfter_cases stage, hu⟩

end Sys2Proof.Machine
end

section
/-!
SUPPORT. Storage at reset and after boot (20_memory.md R86, 70_reset_and_hazards.md R464), home addresses window by window (R82), the ROM's bytes across
a step or a cycle, and the state a placed word is fetched from.
-/
namespace Sys2Proof.Machine

open Sys2Proof

/-! ## The register file and the ROM at reset -/

theorem reset_reg (r : RegIdx) : State.reset.reg r = 0 := by
  simp [State.reg, RegFile.read, State.reset]

/-- Four bytes of the ROM window that no cell lists are the fill word (R86). -/
theorem Memory.readWord_of_unlisted_rom {m : Memory} {a : Nat} (hlo : romBase ≤ a) (hhi : a + 4 ≤ ramBase)
    (h : ∀ k, k < 4 → m.read (a + k) = Memory.unlisted (a + k)) : m.readWord a = 0xFFFFFFFF#32 := by
  have hfill (k : Nat) (hk : k < 4) : m.read (a + k) = 0xFF#8 := by rw [h k hk, Memory.unlisted, if_pos (by omega)]
  rw [Memory.readWord, hfill 1 (by decide), hfill 2 (by decide), hfill 3 (by decide), show m.read a = 0xFF#8 from hfill 0 (by decide)]
  rfl

/-! ## Home addresses, window by window -/

theorem homeWord_rom {c : Config} {a : Word} (h : region a = .rom) :
    homeWord c a = romBase + 4 * (a.toNat % 2 ^ 28 % c.romSize / 4) := by
  rw [homeWord_eq_index, and_deviceSize_sub_one, h, ← show windowSize = 2 ^ 28 from rfl, (region_rom_iff a).1 h]; rfl

theorem homeWord_ram {c : Config} {a : Word} (h : region a = .ram) :
    homeWord c a = ramBase + 4 * (a.toNat % 2 ^ 28 % c.ramSize / 4) := by
  rw [homeWord_eq_index, and_deviceSize_sub_one, h, ← show windowSize = 2 ^ 28 from rfl, (region_ram_iff a).1 h]; rfl

/-- The two addresses of one region are in one window (R81). -/
theorem window_eq_of_region_eq {a b : Word} (hm : mapped a = true) (h : region b = region a) : b.toNat / windowSize = a.toNat / windowSize := by
  obtain hr | hr := (mapped_iff a).1 hm
  · rw [(region_rom_iff a).1 hr, (region_rom_iff b).1 (h.trans hr)]
  · rw [(region_ram_iff a).1 hr, (region_ram_iff b).1 (h.trans hr)]

/-! ## The image and the initial RAM after boot -/

/-- Word `i` of the ROM after boot: the image's, or the fill word past its end (R86). -/
theorem bootMemory_romWord {p : BootParams} (hwf : p.cfg.wf = true) {i : Nat} (hi : 4 * i + 4 ≤ p.cfg.romSize) :
    (loadWords (loadWords [] romBase p.romImage) ramBase p.ramInit).readWord (romBase + 4 * i) = p.romImage.getD i 0xFFFFFFFF#32 := by
  obtain ⟨-, -, hsize⟩ := romSize_spec hwf
  have hend : romBase + windowSize = ramBase := rfl
  have hbelow (k : Nat) (hk : k < 4) : (loadWords (loadWords [] romBase p.romImage) ramBase p.ramInit).read (romBase + 4 * i + k) =
      (loadWords [] romBase p.romImage).read (romBase + 4 * i + k) := loadWords_read_of_outside _ (by omega)
  cases hw : p.romImage[i]? with
  | some w =>
    have hword := loadWords_readWord (m := []) (a := romBase) rfl hw
    rw [List.getD_eq_getElem?_getD, hw, Option.getD_some, ← hword, Memory.readWord, Memory.readWord, hbelow 1 (by decide),
      hbelow 2 (by decide), hbelow 3 (by decide)]
    exact congrArg (wordOfLanes · _ _ _) (hbelow 0 (by decide))
  | none =>
    have hlen := List.getElem?_eq_none_iff.1 hw
    rw [List.getD_eq_getElem?_getD, hw, Option.getD_none]
    refine Memory.readWord_of_unlisted_rom (by omega) (by omega) fun k hk => ?_
    rw [hbelow k hk, loadWords_read_of_outside _ (by omega)]; rfl

theorem bootMemory_ramWord {p : BootParams} {i : Nat} {v : Word} (h : p.ramInit[i]? = some v) :
    (loadWords (loadWords [] romBase p.romImage) ramBase p.ramInit).readWord (ramBase + 4 * i) = v :=
  loadWords_readWord (loadWords_wf _ _ rfl) h

theorem boot_ok_iff (p : BootParams) :
    (∃ s, boot p = .ok s) ↔ p.cfg.wf = true ∧ 4 * p.romImage.length ≤ p.cfg.romSize ∧ 4 * p.ramInit.length ≤ p.cfg.ramSize := by
  constructor
  · rintro ⟨s, h⟩
    obtain ⟨hwf, hrom, hram, -⟩ := boot_of_ok h
    exact ⟨hwf, hrom, hram⟩
  · rintro ⟨hwf, hrom, hram⟩
    rw [boot, hwf, if_neg (by decide), if_neg (by omega), if_neg (by omega)]
    exact ⟨_, rfl⟩

/-! ## The ROM's bytes -/

/-- Whatever the configured size, a RAM address has its home in the RAM window. -/
theorem ramBase_le_homeWord {c : Config} {a : Word} (h : region a = .ram) : ramBase ≤ homeWord c a := by
  rw [homeWord_ram h]; omega

/-- A bus write leaves every byte below the RAM window alone, in any state (20_memory.md R86, R87). -/
theorem read_busWrite_of_lt_ramBase {c : Config} (m : Memory) (w : Width) (a v : Word) {k : Nat} (hk : k < ramBase) :
    (busWrite c m w a v).read k = m.read k := by
  cases hr : region a with
  | ram =>
    have := ramBase_le_homeWord (c := c) hr
    rw [busWrite_ram hr]
    exact Memory.read_writeWord_of_outside m _ (by omega)
  | rom | unmapped => simp [busWrite, hr]

theorem exec_romByte {s t : State} {i : Instr} (h : exec i s = .next t) {k : Nat} (hk : k < ramBase) : t.mem.read k = s.mem.read k := by
  obtain ⟨u, hu, shape⟩ := exec_shape i s
  obtain rfl := Host.Outcome.next.inj (hu.symm.trans h)
  cases shape with
  | writing | plain | csr | returning => rfl
  | storing w ea v => exact read_busWrite_of_lt_ramBase s.mem w ea v hk
  | trapping => rw [takeTrap_mem]

theorem cycle_romByte {s t : State} (h : cycle s = .next t) {k : Nat} (hk : k < ramBase) : t.mem.read k = s.mem.read k := by
  cases cycle_shape_of_next h with
  | acceptMemory | acceptDecode | acceptMret | fetch | decode | execute | writeBack => rfl
  | idle | setCsr | setProgramCounter | returnFromTrap => rfl
  | memory =>
    show (memoryStageMem s).read k = s.mem.read k
    obtain hm | hm := memoryStageMem_cases s <;> rw [hm]
    exact read_busWrite_of_lt_ramBase s.mem _ _ _ hk

theorem step_romByte {s t : State} (h : step s = .next t) {k : Nat} (hk : k < ramBase) : t.mem.read k = s.mem.read k := by
  cases hf : s.atFetch with
  | false => exact cycle_romByte (step_of_not_atFetch hf ▸ h) hk
  | true =>
    obtain ⟨e, tval, hstep⟩ | ⟨i, -, hstep⟩ := step_shape hf
    · obtain rfl := Host.Outcome.next.inj (hstep.symm.trans h)
      rw [takeTrap_mem]
    · exact exec_romByte (hstep.symm.trans h) hk

/-! ## The placed word -/

/-- After `readyToFetch` the next cycle is a Fetch slot at a fetchable address, over the same memory. -/
theorem readyToFetch_spec (s : State) :
    (readyToFetch s).atFetch = true ∧ accessFault .word (readyToFetch s).fetchAddress = none ∧ (readyToFetch s).mem = s.mem := by
  simp only [readyToFetch]
  generalize hready : (if s.atFetch then s else _) = ready
  have hslot : ready.atFetch = true ∧ ready.mem = s.mem := by
    subst hready
    split
    · exact ⟨‹_›, rfl⟩
    · exact ⟨rfl, rfl⟩
  split
  · exact ⟨hslot.1, ‹_›, hslot.2⟩
  · have hboot : accessFault .word bootVector = none := by decide
    exact ⟨hslot.1, hboot, hslot.2⟩

theorem step_placeWord {s : State} (hm : s.mem.wf = true) (w : Word) : step (placeWord s w) = runWord w (placeWord s w) := by
  obtain ⟨hf, hok, hmem⟩ := readyToFetch_spec s
  obtain ⟨ha, hmapped⟩ := (accessFault_word_none_iff _).1 hok
  rw [step_of_fetched (s := placeWord s w) hf ha hmapped]
  congr 1
  exact Memory.readWord_writeWord_same _ w (hmem.symm ▸ hm)

theorem withFetchWord_toNat (s : State) (w : Word) : s.withFetchWord 32 w.toNat = placeWord s w := by
  rw [State.withFetchWord, Nat.mod_eq_of_lt w.isLt, BitVec.ofNat_toNat, BitVec.setWidth_eq]

end Sys2Proof.Machine
end

section
/-!
The obligations about storage: reset and boot, the mirrors, the ROM, a stored word fetched, and the placed word.
-/
namespace Sys2Proof.Machine

open Sys2Proof

/-- Settles O1: beside the declared defaults, the zero register file and the ROM of fill words. -/
theorem resetState : Obligations.ResetState := by
  refine ⟨reset_reg, rfl, rfl, rfl, rfl, rfl, rfl, rfl, rfl, rfl, rfl, rfl, rfl, rfl, rfl, rfl, rfl, rfl, rfl, fun a ha => ?_⟩
  obtain ⟨hlo, hhi⟩ := (homeWord_bounds (c := State.reset.cfg) rfl a).1 ha
  have hend : romBase + State.reset.cfg.romSize ≤ ramBase := by decide
  exact Memory.readWord_of_unlisted_rom hlo (by omega) fun _ _ => rfl

/-- Settles O2: the ROM's words are the image's and then fill words, the RAM's those given. -/
theorem bootState : Obligations.BootState := by
  intro p
  refine ⟨boot_ok_iff p, fun s h => ?_⟩
  obtain ⟨hwf, -, -, rfl⟩ := boot_of_ok h
  refine ⟨rfl, rfl, rfl, rfl, rfl, rfl, rfl, rfl, rfl, rfl, rfl, rfl, reset_reg, rfl, rfl, fun a ha => ?_, fun a ha v hv => ?_⟩
  · rw [State.wordAt, busWord, homeWord_rom ha]
    obtain ⟨hfour, hpos, -⟩ := romSize_spec hwf
    have hlt := Nat.mod_lt (a.toNat % 2 ^ 28) hpos
    have hindex : 4 * (a.toNat % 2 ^ 28 % p.cfg.romSize / 4) + 4 ≤ p.cfg.romSize := by omega
    exact bootMemory_romWord hwf hindex
  · rw [State.wordAt, busWord, homeWord_ram ha]
    exact bootMemory_ramWord hv

/-- Settles O36: in one window, homes differ exactly as the masked offsets do. -/
theorem devicesAreMirrored : Obligations.DevicesAreMirrored := by
  intro c a b _ hm hr
  rw [and_deviceSize_sub_one, and_deviceSize_sub_one, homeAddress, homeAddress, hr, window_eq_of_region_eq hm hr]
  exact Nat.add_left_cancel_iff

/-- Settles O40. -/
theorem romNeverChanges : Obligations.RomNeverChanges := by
  intro s t h a _ ha
  exact h.elim (step_romByte · ha) (cycle_romByte · ha)

/-- Settles O41: the fetch reads the word the store wrote, both at one home. -/
theorem storeIsFetched : Obligations.StoreIsFetched := by
  intro s t u rs2 rs1 imm ea _ hm hr ha ht hcfg hmem hfr hfa hhome
  have hexec : exec (.sw rs2 rs1 imm) s = .next (s.store (.sw rs2 rs1 imm) rs2 rs1 imm .word) := rfl
  rw [State.store_of_ok ((aligned_iff .word ea).2 ha) ((mapped_iff ea).2 (.inr hr))] at hexec
  obtain rfl := Host.Outcome.next.inj (ht.symm.trans hexec)
  have hok := (accessFault_word_none_iff u.fetchAddress).2 ⟨hfa, (mapped_iff _).2 (.inr hfr)⟩
  have hword : homeWord s.cfg u.fetchAddress = homeWord s.cfg ea := congrArg (· / 4 * 4) hhome
  simp only [State.fetch, hok]
  rw [State.wordAt, hcfg, hmem]
  refine congrArg Fetched.word (Eq.trans ?_ (busWord_busWrite_ram (c := s.cfg) .word (s.reg rs2) hm hr))
  exact congrArg (Memory.readWord _) hword

/-- Settles O60: the fetched word is the placed one, and it decodes to its instruction. -/
theorem placedWordRuns : Obligations.PlacedWordRuns := by
  intro s i h hwf
  rw [withFetchWord_toNat, step_placeWord h.mem_wf, runWord, decodeEncode i hwf]

end Sys2Proof.Machine
end

section
/-!
SUPPORT. The cycle level: what Decode stages with and without an exception (40_pipeline.md R222, R225, R226), what Execute selects (R231, R232), the
slots as exclusive situations (R196, R200), and the vector address in the spec's form (60_exceptions.md R421).
-/
namespace Sys2Proof.Machine

open Sys2Proof

/-! ## Decode -/

section Decode

variable {f : FetchBank} (regs : RegFile)

theorem decodeStage_of_ok (h : decodeFault f = none) : decodeStage f regs = decodeLatch f regs := by simp only [decodeStage, h]

/-- An exception stages its context and takes every signal and `mret` back (R222, R225, R226). -/
theorem decodeStage_of_fault {e : Exn} {tval : Word} (h : decodeFault f = some (e, tval)) :
    (decodeStage f regs).trap = true ∧ (decodeStage f regs).context = ⟨f.pcPlus4, causeCode e, tval⟩
      ∧ (decodeStage f regs).signals = List.replicate 9 false ∧ (decodeStage f regs).mret = false := by
  rw [decodeStage, h]
  exact ⟨rfl, rfl, rfl, rfl⟩

theorem decodeStage_trap_eq_false_iff : (decodeStage f regs).trap = false ↔ decodeFault f = none := by
  cases h : decodeFault f with
  | none => simp [decodeStage_of_ok regs h, decodeLatch]
  | some p => simp [(decodeStage_of_fault regs (e := p.1) (tval := p.2) h).1]

end Decode

section DecodeFault

variable {f : FetchBank}

theorem decodeFault_of_misaligned (ha : f.pc.toNat % 4 ≠ 0) : decodeFault f = some (.instructionAddressMisaligned, f.pc) := by
  simp only [decodeFault, (accessFault_misaligned_iff .word f.pc).2 ((misaligned_iff .word f.pc).2 ha)]

theorem decodeFault_of_unmapped (ha : f.pc.toNat % 4 = 0) (hm : mapped f.pc = false) :
    decodeFault f = some (.instructionAccessFault, f.pc) := by
  simp only [decodeFault, (accessFault_unmapped_iff .word f.pc).2 ⟨(aligned_iff .word f.pc).2 ha, hm⟩]

theorem decodeFault_of_fetched (ha : f.pc.toNat % 4 = 0) (hm : mapped f.pc = true) :
    decodeFault f = if legal f.instruction then none else some (.illegalInstruction, f.instruction) := by
  simp only [decodeFault, (accessFault_word_none_iff f.pc).2 ⟨ha, hm⟩]

theorem legal_of_decodeFault_none (h : decodeFault f = none) : legal f.instruction = true := by
  unfold decodeFault at h
  split at h
  · cases h
  · cases h
  · split at h
    · assumption
    · cases h

end DecodeFault

/-- A legal word has the opcode of a class (30_encoding.md R142, R158). -/
theorem opcode_of_legal {w : Word} (h : legal w = true) :
    opcodeOf w ∈ [opLoad, opOpImm, opAuipc, opStore, opOp, opLui, opBranch, opJalr, opJal, opSystem] := by
  by_contra hnone
  simp only [List.mem_cons, List.not_mem_nil, or_false, not_or] at hnone
  simp [legal, hnone] at h

/-- The one test for OP and OP-IMM, which ignores bit 5 (R142). -/
theorem isAluOpcode_eq (op : BitVec 7) : isAluOpcode op = (op == opOp || op == opOpImm) := by
  revert op; decide

/-- The signals of an opcode, in the order of 10_state.md R64. -/
def signalsOf (op : BitVec 7) : List Bool :=
  [op == opOp || op == opOpImm, op == opStore, op == opLoad, op == opLui, op == opAuipc, op == opBranch, op == opJal,
    op == opJal || op == opJalr, op == opSystem]

theorem decodeLatch_signals (f : FetchBank) (regs : RegFile) : (decodeLatch f regs).signals = signalsOf (opcodeOf f.instruction) := by
  rw [signalsOf, ← isAluOpcode_eq]; rfl

/-- JAL is a jump of two signals; every other class has one of its own (R222). -/
theorem count_signalsOf {w : Word} (h : legal w = true) : (signalsOf (opcodeOf w)).count true = if opcodeOf w = opJal then 2 else 1 := by
  have hclass : ∀ op ∈ [opLoad, opOpImm, opAuipc, opStore, opOp, opLui, opBranch, opJalr, opJal, opSystem],
      (signalsOf op).count true = if op = opJal then 2 else 1 := by decide
  exact hclass _ (opcode_of_legal h)

/-! ## Execute -/

/-- The condition of each branch, and of no other `funct3` (R232). -/
theorem branchCondition_iff (f3 : BitVec 3) (a b : Word) :
    branchCondition f3 a b = true ↔
      (f3 = 0 ∧ a = b) ∨ (f3 = 1 ∧ a ≠ b) ∨ (f3 = 4 ∧ a.slt b = true) ∨ (f3 = 5 ∧ a.slt b = false) ∨ (f3 = 6 ∧ a.ult b = true)
        ∨ (f3 = 7 ∧ a.ult b = false) := by
  have hslt : lessSigned a b = a.slt b := rfl
  have hult : lessUnsigned a b = a.ult b := rfl
  obtain h | h | h | h | h | h | h | h := funct3_cases f3 <;> subst h <;> simp [branchCondition, hslt, hult]

theorem executeStage_branchValid_iff (d : DecodeBank) :
    (executeStage d).branchValid = true ↔ d.isJump = true ∨ (d.isBranch = true ∧ branchCondition d.funct3 d.rs1 d.rs2 = true) := by
  simp [executeStage]

/-- The amount of a shift, from the register or from the field (R230, decision D36). -/
theorem shift_toNat (isRegisterOp : Bool) (rs2 : Word) (shamt : BitVec 5) :
    (if isRegisterOp then shiftAmount rs2 else shamt).toNat = if isRegisterOp then rs2.toNat % 32 else shamt.toNat := by
  cases isRegisterOp
  · rfl
  · exact shiftAmount_toNat rs2

/-! ## The slots exclude each other, trap mode and the accept cycles -/

section InSlot

variable {s : State} {slot : Slot}

theorem inSlot_unique {slot' : Slot} (h : s.inSlot slot) (h' : s.inSlot slot') : slot = slot' :=
  congrArg OrchBank.slot (h.1.symm.trans h'.1)

theorem not_inSlot_of_trapMode (hm : s.orch.mode = .trap) : ¬ s.inSlot slot := fun h => by simp [h.1] at hm

theorem not_inSlot_of_request (h : s.memBank.trap = true ∨ s.deBank.trap = true ∨ s.deBank.mret = true) : ¬ s.inSlot slot := by
  rintro ⟨-, hmem, htrap, hmret⟩
  simp [hmem, htrap, hmret] at h

end InSlot

/-! ## The vector address -/

/-- Bit 31 of the cause chooses the table and is shifted out of the index (R421). -/
theorem vectorAddress_eq (mtvec cause : Word) :
    vectorAddress mtvec cause = (mtvec &&& 0xFFFFFFFC#32) + (if cause.getLsbD 31 then 0 else 48) + 4 * cause := by
  have hindex : ((cause.extractLsb' 0 31).setWidth 32) <<< 2 = 4 * cause := by
    apply BitVec.eq_of_toNat_eq
    simp only [BitVec.toNat_shiftLeft, BitVec.toNat_setWidth, BitVec.extractLsb'_toNat, BitVec.toNat_mul, Nat.shiftLeft_eq, Nat.shiftRight_zero,
      show (4 : Word).toNat = 4 from rfl]
    omega
  rw [vectorAddress, hindex]; rfl

end Sys2Proof.Machine
end

section
/-!
The obligations about the slots of 40_pipeline.md and the Trap Controller of 60_exceptions.md.
-/
namespace Sys2Proof.Machine

open Sys2Proof

/-- Settles O44. -/
theorem decodeSlotSignals : Obligations.DecodeSlotSignals := by
  intro s h
  refine ⟨_, cycle_decode h.1 h.2, fun htrap => ?_, fun htrap => ?_⟩
  · cases hf : decodeFault s.ifBank with
    | none => rw [(decodeStage_trap_eq_false_iff s.regs).2 hf] at htrap; cases htrap
    | some p => exact (decodeStage_of_fault s.regs (e := p.1) (tval := p.2) hf).2.2.1
  · have hf := (decodeStage_trap_eq_false_iff s.regs).1 htrap
    rw [decodeStage_of_ok s.regs hf, decodeLatch_signals]
    exact ⟨rfl, count_signalsOf (legal_of_decodeFault_none hf)⟩

/-- Settles O45: alignment, then mapping, then legality. -/
theorem decodeSlotExceptions : Obligations.DecodeSlotExceptions := by
  intro s h pc inst
  refine ⟨_, cycle_decode h.1 h.2, fun ha => ?_, fun ha hm => ?_, fun ha hm hl => ?_, fun ha hm hl => ?_, ?_⟩
  · obtain ⟨htrap, hctx, -⟩ := decodeStage_of_fault s.regs (decodeFault_of_misaligned ha)
    exact ⟨htrap, hctx⟩
  · obtain ⟨htrap, hctx, -⟩ := decodeStage_of_fault s.regs (decodeFault_of_unmapped ha hm)
    exact ⟨htrap, hctx⟩
  · have hf := decodeFault_of_fetched ha hm
    rw [hl] at hf
    obtain ⟨htrap, hctx, -⟩ := decodeStage_of_fault s.regs hf
    exact ⟨htrap, hctx⟩
  · have hf := decodeFault_of_fetched ha hm
    rw [hl] at hf
    simp only [decodeStage_of_ok s.regs hf]
    exact ⟨rfl, rfl⟩
  · simp only [decodeStage_trap_eq_false_iff]
    cases hf : decodeFault s.ifBank with
    | none => simp [decodeStage_of_ok s.regs hf, decodeLatch, inst, mretWord]
    | some p => simp [decodeStage_of_fault s.regs (e := p.1) (tval := p.2) hf]

/-- Settles O46: `funct3` selects the result, and all else passes through. -/
theorem executeSlot : Obligations.ExecuteSlot := by
  intro s h d reg alt b n
  have hn : (if reg then shiftAmount d.rs2 else d.shamt).toNat = n := shift_toNat reg d.rs2 d.shamt
  have hselect {f3 : BitVec 3} (hf : d.funct3 = f3) : (executeStage d).aluResult = aluSelect reg alt f3 d.rs1 d.rs2 d.imm32 d.shamt := by
    subst hf; rfl
  refine ⟨executeStage d, cycle_execute h.1 h.2, hselect, fun hf => ?_, hselect, hselect, hselect, fun hf => ?_, hselect, hselect, rfl, ?_,
    rfl, rfl, rfl, rfl, rfl, rfl, rfl, rfl, rfl, rfl, rfl, rfl, rfl, rfl, rfl, rfl, rfl, rfl, rfl⟩
  · rw [hselect hf, ← hn]; rfl
  · rw [hselect hf, ← hn]; rfl
  · rw [executeStage_branchValid_iff, branchCondition_iff]

/-- Settles O51. -/
theorem writeBackSlot : Obligations.WriteBackSlot := by
  intro s h
  refine ⟨writeBackStage s, cycle_writeBack h.1 h.2, fun r => ?_⟩
  rw [writeBackStage]
  cases s.memBank.writebackValueValid with
  | false => simp [State.reg_eq]
  | true => simp [State.reg_eq, RegFile.read_write]

/-- Settles O52: only the W slot touches `instret`; a CSR write of the M slot touches no counter. -/
theorem countersCount : Obligations.CountersCount := by
  intro s t h
  have hother (hno : ¬ s.inSlot .W) (hinstret : t.csr.instret = s.csr.instret) (hcycles : t.csr.cycles = s.csr.cycles + 1) :
      (s.inSlot .W → t.csr.instret = s.csr.instret + 1) ∧ (¬ s.inSlot .W → t.csr.instret = s.csr.instret)
        ∧ t.csr.cycles = s.csr.cycles + 1 := ⟨fun hw => absurd hw hno, fun _ => hinstret, hcycles⟩
  cases cycle_shape_of_next h with
  | acceptMemory _ hreq => exact hother (not_inSlot_of_request (.inl hreq)) rfl rfl
  | acceptDecode _ _ hreq => exact hother (not_inSlot_of_request (.inr (.inl hreq))) rfl rfl
  | acceptMret _ _ _ hreq => exact hother (not_inSlot_of_request (.inr (.inr hreq))) rfl rfl
  | fetch hs | decode hs | execute hs => exact hother (fun hw => nomatch inSlot_unique hs hw) rfl rfl
  | memory hs =>
    have hcounters : (memoryStageCsr s (s.addCycles 1).csr).instret = s.csr.instret
        ∧ (memoryStageCsr s (s.addCycles 1).csr).cycles = s.csr.cycles + 1 := by
      obtain he | ⟨a, v, he⟩ := memoryStageCsr_cases s (s.addCycles 1).csr <;> rw [he]
      · exact ⟨rfl, rfl⟩
      · exact (csrWrite_counters ..).symm
    exact hother (fun hw => nomatch inSlot_unique hs hw) hcounters.1 hcounters.2
  | writeBack hs => exact ⟨fun _ => rfl, fun hno => absurd hs hno, rfl⟩
  | idle hm _ | setCsr hm _ _ | setProgramCounter hm _ | returnFromTrap hm _ => exact hother (not_inSlot_of_trapMode hm) rfl rfl

/-- Settles O53: with no request standing, each shape of a cycle changes the banks of its own slot. -/
theorem oneStagePerCycle : Obligations.OneStagePerCycle := by
  intro s t h hquiet
  cases cycle_shape_of_next h with
  | acceptMemory hm hreq => simp [(hquiet hm).1] at hreq
  | acceptDecode hm _ hreq => simp [(hquiet hm).2.1] at hreq
  | acceptMret hm _ _ hreq => simp [(hquiet hm).2.2] at hreq
  | fetch hs => exact ⟨fun hno => absurd hs hno, fun _ => rfl, fun _ => rfl, fun _ => ⟨rfl, rfl⟩, fun _ => rfl⟩
  | decode hs => exact ⟨fun _ _ => rfl, fun hno => absurd hs hno, fun _ => rfl, fun _ => ⟨rfl, rfl⟩, fun _ => rfl⟩
  | execute hs => exact ⟨fun _ _ => rfl, fun _ => rfl, fun hno => absurd hs hno, fun _ => ⟨rfl, rfl⟩, fun _ => rfl⟩
  | memory hs => exact ⟨fun _ _ => rfl, fun _ => rfl, fun _ => rfl, fun hno => absurd hs hno, fun _ => rfl⟩
  | writeBack hs => exact ⟨fun _ _ => rfl, fun _ => rfl, fun _ => rfl, fun _ => ⟨rfl, rfl⟩, fun hno => absurd hs hno⟩
  | setProgramCounter hm hst =>
    exact ⟨fun _ hno => absurd ⟨hm, hst⟩ hno, fun _ => rfl, fun _ => rfl, fun _ => ⟨rfl, rfl⟩, fun _ => rfl⟩
  | idle | setCsr | returnFromTrap => exact ⟨fun _ _ => rfl, fun _ => rfl, fun _ => rfl, fun _ => ⟨rfl, rfl⟩, fun _ => rfl⟩

/-- Settles O54. -/
theorem exceptionAccepted : Obligations.ExceptionAccepted := by
  intro s hm accepted
  refine ⟨fun hreq => ?_, cycle_acceptMret hm⟩
  cases hmem : s.memBank.trap with
  | true => exact cycle_acceptMemory hm hmem
  | false => exact cycle_acceptDecode hm hmem (hreq.resolve_left (by simp [hmem]))

/-- Settles O56. -/
theorem vectorIsLoaded : Obligations.VectorIsLoaded := by
  intro s hm hst
  rw [← vectorAddress_eq]
  exact ⟨(aligned_iff .word _).1 (vectorAddress_aligned ..), cycle_setCsr hm hst, cycle_fatal hm hst⟩

/-- Settles O57: under the invariant trap mode is flushed, so no request and no branch stands in the way of the fetch. -/
theorem programCounterIsSet : Obligations.ProgramCounterIsSet := by
  intro s hm hst
  refine ⟨_, cycle_setProgramCounter hm hst, rfl, fun hinv => ?_⟩
  obtain ⟨hslot, hde, hex, hmem⟩ := hinv.trap_flushed hm
  refine ⟨(State.atFetch_iff _).2 ⟨congrArg (OrchBank.mk .pipeline) hslot, ?_⟩, ?_⟩
  · exact ⟨congrArg MemoryBank.trap hmem, congrArg DecodeBank.trap hde, congrArg DecodeBank.mret hde⟩
  · exact State.fetchAddress_setProgramCounter_flushed s _ (congrArg ExecuteBank.branchValid hex)

end Sys2Proof.Machine
end

section
/-!
SUPPORT. The five CSRs that are storage only (60_exceptions.md R441): a replacement of their values passes through an exception, a load, a store and the
M cycle of an instruction that is no CSR access.
-/
namespace Sys2Proof.Machine

open Sys2Proof

variable {a b c d e : Word}

theorem takeTrap_withInert (stage : TrapStage) (ctx : TrapContext) (s : State) :
    takeTrap stage ctx (s.withInert a b c d e) = (takeTrap stage ctx s).withInert a b c d e := by
  cases h : mapped (vectorAddress s.csr.mtvec ctx.mcause) with
  | true => rw [takeTrap_of_mapped stage ctx s h, takeTrap_of_mapped stage ctx (s.withInert a b c d e) h]; rfl
  | false => rw [takeTrap_of_unmapped stage ctx s h, takeTrap_of_unmapped stage ctx (s.withInert a b c d e) h]; rfl

theorem load_withInert (s : State) (i : Instr) (rd rs1 : RegIdx) (imm : BitVec 12) (w : Width) (unsigned : Bool) :
    (s.withInert a b c d e).load i rd rs1 imm w unsigned = (s.load i rd rs1 imm w unsigned).withInert a b c d e := by
  cases ha : misaligned w (s.effectiveAddress rs1 imm) with
  | true =>
    rw [State.load_of_misaligned ha, State.load_of_misaligned (s := s.withInert a b c d e) ha]
    exact takeTrap_withInert ..
  | false =>
    cases hm : mapped (s.effectiveAddress rs1 imm) with
    | true => rw [State.load_of_ok ha hm, State.load_of_ok (s := s.withInert a b c d e) ha hm]; rfl
    | false =>
      rw [State.load_of_unmapped ha hm, State.load_of_unmapped (s := s.withInert a b c d e) ha hm]
      exact takeTrap_withInert ..

theorem store_withInert (s : State) (i : Instr) (rs2 rs1 : RegIdx) (imm : BitVec 12) (w : Width) :
    (s.withInert a b c d e).store i rs2 rs1 imm w = (s.store i rs2 rs1 imm w).withInert a b c d e := by
  cases ha : misaligned w (s.effectiveAddress rs1 imm) with
  | true =>
    rw [State.store_of_misaligned ha, State.store_of_misaligned (s := s.withInert a b c d e) ha]
    exact takeTrap_withInert ..
  | false =>
    cases hm : mapped (s.effectiveAddress rs1 imm) with
    | true => rw [State.store_of_ok ha hm, State.store_of_ok (s := s.withInert a b c d e) ha hm]; rfl
    | false =>
      rw [State.store_of_unmapped ha hm, State.store_of_unmapped (s := s.withInert a b c d e) ha hm]
      exact takeTrap_withInert ..

/-- Every instruction but the six CSR ones, whose words are the SYSTEM words with a `funct3` other than 0. -/
theorem exec_withInert (s : State) {i : Instr} (hi : ¬ (opcodeOf (encode i) = opSystem ∧ funct3Of (encode i) ≠ 0)) :
    exec i (s.withInert a b c d e) = mapNext (fun t => t.withInert a b c d e) (exec i s) := by
  cases i with
  | csrrw | csrrs | csrrc | csrrwi | csrrsi | csrrci => simp [encode] at hi
  | lb | lh | lw | lbu | lhu => exact congrArg Host.Outcome.next (load_withInert ..)
  | sb | sh | sw => exact congrArg Host.Outcome.next (store_withInert ..)
  | ecall | ebreak | wfi | sret | fence | fenceI => exact congrArg Host.Outcome.next (takeTrap_withInert ..)
  | mret => rfl
  | lui | auipc | jal | jalr | beq | bne | blt | bge | bltu | bgeu => rfl
  | addi | slti | sltiu | xori | ori | andi | slli | srli | srai => rfl
  | add | sub | sll | slt | sltu | xor | srl | sra | or | and => rfl

/-- Only a CSR access reads the CSR bank in its M cycle (40_pipeline.md R244 to R246). -/
theorem memoryStage_withInert {s : State} (h : s.exBank.isSystem = false) : memoryStage (s.withInert a b c d e) = memoryStage s := by
  have hvalue : writebackOf (s.withInert a b c d e) s.exBank = writebackOf s s.exBank := by
    simp only [writebackOf, h]; rfl
  cases hf : memoryFault s.exBank with
  | none =>
    rw [memoryStage_of_ok hf, memoryStage_of_ok (s := s.withInert a b c d e) hf]
    exact congrArg (MemoryBank.mk · _ _ _ _ _ _ _) hvalue
  | some exn => rw [memoryStage_of_fault hf, memoryStage_of_fault (s := s.withInert a b c d e) hf]; rfl

/-- Every cycle but the M cycle of a CSR instruction, shape by shape: each reads other registers alone. -/
theorem cycle_withInert {s : State} (h : ¬ (s.inSlot .M ∧ s.exBank.isSystem = true)) :
    cycle (s.withInert a b c d e) = mapNext (fun t => t.withInert a b c d e) (cycle s) := by
  obtain ⟨t, ht, shape⟩ | ⟨hfault, hfatal⟩ := cycle_shape s
  · rw [ht]
    cases shape with
    | acceptMemory hm hreq => exact cycle_acceptMemory (s := s.withInert a b c d e) hm hreq
    | acceptDecode hm hno hreq => exact cycle_acceptDecode (s := s.withInert a b c d e) hm hno hreq
    | acceptMret hm hno hno' hreq => exact cycle_acceptMret (s := s.withInert a b c d e) hm hno hno' hreq
    | fetch hs => exact cycle_fetch (s := s.withInert a b c d e) hs.1 hs.2
    | decode hs => exact cycle_decode (s := s.withInert a b c d e) hs.1 hs.2
    | execute hs => exact cycle_execute (s := s.withInert a b c d e) hs.1 hs.2
    | memory hs =>
      have hsystem : s.exBank.isSystem = false := by simpa [hs] using h
      rw [cycle_memory (s := s.withInert a b c d e) hs.1 hs.2, memoryStage_withInert hsystem, memoryStageCsr_of_not_system _ hsystem,
        memoryStageCsr_of_not_system (s := s.withInert a b c d e) _ hsystem]
      rfl
    | writeBack hs => exact cycle_writeBack (s := s.withInert a b c d e) hs.1 hs.2
    | idle hm hst => exact cycle_idle (s := s.withInert a b c d e) hm hst
    | setCsr hm hst hv => exact cycle_setCsr (s := s.withInert a b c d e) hm hst hv
    | setProgramCounter hm hst => exact cycle_setProgramCounter (s := s.withInert a b c d e) hm hst
    | returnFromTrap hm hst => exact cycle_returnFromTrap (s := s.withInert a b c d e) hm hst
  · rw [hfault]
    exact (cycle_fault_iff (s.withInert a b c d e)).2 hfatal

end Sys2Proof.Machine
end

section
/-!
The obligation about the five CSRs that influence nothing.
-/
namespace Sys2Proof.Machine

open Sys2Proof

/-- Settles O59. -/
theorem inertCsrsHaveNoEffect : Obligations.InertCsrsHaveNoEffect := by
  intro s a b c d e
  exact ⟨cycle_withInert, fun _ => exec_withInert s⟩

end Sys2Proof.Machine
end

section
/-!
SUPPORT. The cycles of one instruction (00_scope.md R19, 40_pipeline.md R200): runs of cycles with no Fetch slot in between, the states after the
D and the E slot, and what each of the three ways on leaves: an exception of Decode, MRET, or the M slot with its exception or its retirement.
-/
namespace Sys2Proof.Machine

open Sys2Proof

/-! ## Runs of cycles -/

/-- `k` cycles lead from one state to another, and no state strictly between them is an evaluated Fetch slot. -/
def State.RunsTo (s : State) (k : Nat) (t : State) : Prop :=
  runCycles k s = .next t ∧ ∀ j u, 0 < j → j < k → runCycles j s = .next u → u.atFetch = false

theorem runsTo_zero (s : State) : s.RunsTo 0 s := ⟨rfl, fun _ _ _ hlt => absurd hlt (Nat.not_lt_zero _)⟩

theorem runsTo_one {s t : State} (h : cycle s = .next t) : s.RunsTo 1 t := ⟨runCycles_succ h, fun j _ hpos hlt => by omega⟩

theorem runsTo_succ {s u t : State} {k : Nat} (h : cycle s = .next u) (hu : u.atFetch = false) (hr : u.RunsTo k t) : s.RunsTo (k + 1) t := by
  obtain ⟨hrun, hbetween⟩ := hr
  refine ⟨(runCycles_succ h).trans hrun, fun j v hpos hlt hj => ?_⟩
  obtain ⟨j, rfl⟩ : ∃ i, j = i + 1 := ⟨j - 1, by omega⟩
  rw [runCycles_succ h] at hj
  cases j with
  | zero => exact Host.Outcome.next.inj hj ▸ hu
  | succ j => exact hbetween (j + 1) v (by omega) (by omega) hj

/-- The cycles from a Fetch slot to the next one, or to a FATAL-bound state. -/
def State.RunsInstruction (s t : State) : Prop :=
  ∃ k, s.RunsTo k t ∧ ((t.atFetch = true ∧ (k = 5 ∨ k = 7)) ∨ (t.fatalNext ∧ (k = 3 ∨ k = 5)))
    ∧ t.csr.cycles = s.csr.cycles + BitVec.ofNat 64 k

/-! ## Exceptions -/

/-- From the accept cycle on, a readable vector entry takes two cycles (60_exceptions.md R420, R423). -/
theorem runsTo_takeTrap {s : State} (stage : TrapStage) (ctx : TrapContext) (hv : mapped (vectorAddress s.csr.mtvec ctx.mcause) = true) :
    ((s.acceptTrap ctx).addCycles (acceptedAfter stage)).RunsTo 2 (takeTrap stage ctx s) := by
  refine runsTo_succ (cycle_setCsr rfl rfl hv) rfl (runsTo_one ?_)
  rw [cycle_setProgramCounter rfl rfl, takeTrap_of_mapped stage ctx s hv]
  simp only [State.addCycles, State.setProgramCounter, trappedCsr, State.acceptTrap, BitVec.add_assoc]
  rfl

/-- An exception, once the accept cycle is reached in its time. -/
theorem runsInstruction_takeTrap {s : State} {stage : TrapStage} {ctx : TrapContext}
    (h : ∀ k t, ((s.acceptTrap ctx).addCycles (acceptedAfter stage)).RunsTo k t → s.RunsTo (k + (acceptedAfter stage).toNat) t) :
    s.RunsInstruction (takeTrap stage ctx s) := by
  cases hv : mapped (vectorAddress s.csr.mtvec ctx.mcause) with
  | false =>
    rw [takeTrap_of_unmapped stage ctx s hv]
    refine ⟨_, h 0 _ (runsTo_zero _), .inr ⟨⟨rfl, rfl, hv⟩, ?_⟩, ?_⟩
    · cases stage
      · exact .inl rfl
      · exact .inr rfl
    · cases stage <;> rfl
  | true =>
    refine ⟨_, h 2 _ (runsTo_takeTrap stage ctx hv), .inl ⟨?_, ?_⟩, ?_⟩
    · rw [takeTrap_of_mapped stage ctx s hv]; rfl
    · cases stage
      · exact .inl rfl
      · exact .inr rfl
    · rw [takeTrap_of_mapped stage ctx s hv]
      cases stage <;> rfl

/-! ## The F and D slots -/

/-- The state two cycles after a Fetch slot. -/
def State.afterDecode (s : State) : State :=
  { s.addCycles 2 with ifBank := fetchStage s, deBank := decodeStage (fetchStage s) s.regs, orch := ⟨.pipeline, .E⟩ }

theorem runsTo_of_afterDecode {s t : State} {k : Nat} (h : s.inSlot .F) (hr : s.afterDecode.RunsTo k t) : s.RunsTo (k + 2) t := by
  refine runsTo_succ (cycle_fetch h.1 h.2) rfl (runsTo_succ ((cycle_decode rfl ?quiet).trans ?_) rfl hr)
  case quiet => exact h.2
  simp only [State.afterDecode, State.addCycles, BitVec.add_assoc]
  rfl

/-- Decode's exception is the one of the fetched address or word (60_exceptions.md R402 to R404). -/
theorem step_of_decodeFault {s : State} (hf : s.atFetch = true) {e : Exn} {tval : Word} (h : decodeFault (fetchStage s) = some (e, tval)) :
    step s = .next (takeTrap .decode (s.trapContext e tval) s) := by
  by_cases ha : s.fetchAddress.toNat % 4 = 0
  · cases hm : mapped s.fetchAddress with
    | false =>
      cases (decodeFault_of_unmapped (f := fetchStage s) ha hm).symm.trans h
      exact step_of_unmapped_fetch hf ha hm
    | true =>
      have hword : (fetchStage s).instruction = s.wordAt s.fetchAddress :=
        fetchStage_instruction_of_ok ((accessFault_word_none_iff _).2 ⟨ha, hm⟩)
      rw [decodeFault_of_fetched (f := fetchStage s) ha hm, hword] at h
      cases hl : legal (s.wordAt s.fetchAddress) with
      | true => simp [hl] at h
      | false =>
        rw [hl] at h
        cases h
        exact step_of_not_legal hf ha hm hl
  · cases (decodeFault_of_misaligned (f := fetchStage s) ha).symm.trans h
    exact step_of_misaligned_fetch hf ha

theorem runsInstruction_of_decodeFault {s : State} (h : s.inSlot .F) {e : Exn} {tval : Word}
    (hd : decodeFault (fetchStage s) = some (e, tval)) : s.RunsInstruction (takeTrap .decode (s.trapContext e tval) s) := by
  obtain ⟨htrap, hctx, -⟩ := decodeStage_of_fault s.regs hd
  refine runsInstruction_takeTrap fun k t hr => runsTo_of_afterDecode (k := k + 1) h (runsTo_succ ?_ rfl hr)
  rw [cycle_acceptDecode (s := s.afterDecode) rfl h.2.1 htrap]
  have haccept : s.afterDecode.acceptTrap s.afterDecode.deBank.context = { s.acceptTrap (s.trapContext e tval) with csr := s.afterDecode.csr } := by
    rw [show s.afterDecode.deBank.context = s.trapContext e tval from hctx]; rfl
  refine congrArg Host.Outcome.next ((congrArg (State.addCycles · 1) haccept).trans ?_)
  simp only [State.afterDecode, State.addCycles, BitVec.add_assoc]
  rfl

/-! ## MRET -/

theorem runsInstruction_mret {s : State} (h : s.inSlot .F) (hd : decodeFault (fetchStage s) = none)
    (hmret : (decodeLatch (fetchStage s) s.regs).mret = true) : s.RunsInstruction (returnFromTrap s) := by
  have hlatch := decodeStage_of_ok s.regs hd
  have htrap : s.afterDecode.deBank.trap = false := congrArg DecodeBank.trap hlatch
  have hrequest : s.afterDecode.deBank.mret = true := (congrArg DecodeBank.mret hlatch).trans hmret
  refine ⟨5, runsTo_of_afterDecode (k := 3) h (runsTo_succ (cycle_acceptMret rfl h.2.1 htrap hrequest) rfl
    (runsTo_succ (cycle_returnFromTrap rfl rfl) rfl (runsTo_one ?_))), .inl ⟨rfl, .inl rfl⟩, rfl⟩
  rw [cycle_setProgramCounter rfl rfl, returnFromTrap_eq]
  simp only [State.afterDecode, State.addCycles, State.acceptMret, State.setProgramCounter, State.flush, BitVec.add_assoc]
  rfl

/-! ## The E and M slots -/

/-- The Execute bank of an instruction fetched at `FA`, as the stage leaves it. -/
def State.executed (s : State) (i : Instr) : ExecuteBank := executeStage (decodeLatch (s.fetchedBank i) s.regs)

/-- The state three cycles after a Fetch slot, where Decode raised nothing and the word is not MRET. -/
def State.afterExecute (s : State) (i : Instr) : State :=
  { s.addCycles 3 with
    ifBank := s.fetchedBank i
    deBank := decodeLatch (s.fetchedBank i) s.regs
    exBank := s.executed i
    orch := ⟨.pipeline, .M⟩ }

/-- The state five cycles after a Fetch slot, where MemoryAccess raised nothing either. -/
def State.completed (s : State) (i : Instr) : State :=
  { s with
    regs := if writebackValid (s.executed i) then RegFile.write s.regs (s.executed i).rd (writebackOf (s.afterExecute i) (s.executed i)) else s.regs
    csr := memoryStageCsr (s.afterExecute i) (countedCsr s.csr)
    mem := memoryStageMem (s.afterExecute i)
    ifBank := s.fetchedBank i
    deBank := decodeLatch (s.fetchedBank i) s.regs
    exBank := s.executed i
    memBank := memoryStage (s.afterExecute i) }

theorem memoryStageCsr_of_fault {s : State} {e : Exn} (staged : CsrFile) (h : memoryFault s.exBank = some e) : memoryStageCsr s staged = staged := by
  simp only [memoryStageCsr, h]

/-- A CSR write touches no counter, so the retirement may be counted before it or after it. -/
theorem csrWrite_counted (mask : Word) (f : CsrFile) (a : CsrAddr) (v : Word) :
    csrWrite mask { f with cycles := f.cycles + 1, instret := f.instret + 1 } a v =
      { csrWrite mask f a v with cycles := (csrWrite mask f a v).cycles + 1, instret := (csrWrite mask f a v).instret + 1 } := by
  unfold csrWrite
  split
  · rename_i c _; cases c <;> rfl
  · rfl

theorem memoryStageCsr_counted (s : State) (f : CsrFile) :
    memoryStageCsr s { f with cycles := f.cycles + 1, instret := f.instret + 1 } =
      { memoryStageCsr s f with cycles := (memoryStageCsr s f).cycles + 1, instret := (memoryStageCsr s f).instret + 1 } := by
  simp only [memoryStageCsr]
  split
  · rfl
  · split
    · exact csrWrite_counted ..
    · rfl

theorem afterExecute_inSlot {s : State} {i : Instr} (h : s.inSlot .F) (hne : encode i ≠ mretWord) : (s.afterExecute i).inSlot .M :=
  ⟨rfl, h.2.1, rfl, beq_eq_false_iff_ne.2 hne⟩

theorem memoryStageCsr_cycles (s : State) (f : CsrFile) : (memoryStageCsr s f).cycles = f.cycles := by
  obtain he | ⟨a, v, he⟩ := memoryStageCsr_cases s f <;> rw [he]
  exact (csrWrite_counters ..).1

section Execute

variable {s : State} {i : Instr} (h : s.inSlot .F) (hword : fetchStage s = s.fetchedBank i) (hd : decodeFault (fetchStage s) = none)
  (hne : encode i ≠ mretWord)
include h hword hd hne

theorem runsTo_of_afterExecute {t : State} {k : Nat} (hr : (s.afterExecute i).RunsTo k t) : s.RunsTo (k + 3) t := by
  have hlatch : decodeStage (s.fetchedBank i) s.regs = decodeLatch (s.fetchedBank i) s.regs := decodeStage_of_ok s.regs (hword ▸ hd)
  have hmret : (decodeLatch (s.fetchedBank i) s.regs).mret = false := beq_eq_false_iff_ne.2 hne
  have hbank : s.afterDecode.deBank = decodeLatch (s.fetchedBank i) s.regs := by rw [State.afterDecode, hword, hlatch]
  have hquiet : s.afterDecode.quiet := ⟨h.2.1, congrArg DecodeBank.trap hbank, (congrArg DecodeBank.mret hbank).trans hmret⟩
  refine runsTo_of_afterDecode (k := k + 1) h (runsTo_succ ((cycle_execute (s := s.afterDecode) rfl hquiet).trans ?_) rfl hr)
  simp only [State.afterDecode, hword, hlatch, State.addCycles, BitVec.add_assoc]
  rfl

theorem runsInstruction_of_memoryFault {e : Exn} (hf : memoryFault (s.executed i) = some e) : s.RunsInstruction (s.memoryTrap i e) := by
  have hslot := afterExecute_inSlot h hne
  have hcycle : cycle (s.afterExecute i) = .next { (s.afterExecute i).addCycles 1 with
      memBank := ⟨0, false, (s.executed i).rd, s.fetchAddress, true, causeCode e, s.fetchAddress + 4, encode i⟩
      orch := ⟨.pipeline, .W⟩ } := by
    rw [cycle_memory hslot.1 hslot.2, memoryStage_of_fault (s := s.afterExecute i) hf,
      memoryStageMem_of_fault (s := s.afterExecute i) (Option.ne_none_iff_exists'.2 ⟨e, hf⟩), memoryStageCsr_of_fault (s := s.afterExecute i) _ hf]
    rfl
  refine runsInstruction_takeTrap fun k t hr => runsTo_of_afterExecute (k := k + 2) h hword hd hne
    (runsTo_succ hcycle rfl (runsTo_succ ((cycle_acceptMemory rfl rfl).trans ?_) rfl hr))
  simp only [State.afterExecute, State.addCycles, State.acceptTrap, State.flush, BitVec.add_assoc]
  rfl

theorem runsInstruction_completed (hf : memoryFault (s.executed i) = none) : s.RunsInstruction (s.completed i) := by
  have hslot := afterExecute_inSlot h hne
  have hbank := memoryStage_of_ok (s := s.afterExecute i) hf
  have hmret : (decodeLatch (s.fetchedBank i) s.regs).mret = false := hslot.2.2.2
  refine ⟨5, runsTo_of_afterExecute (k := 2) h hword hd hne (runsTo_succ (cycle_memory hslot.1 hslot.2) rfl
    (runsTo_one ((cycle_writeBack rfl ?quiet).trans ?states))), .inl ⟨?fetch, .inl rfl⟩, ?cycles⟩
  case quiet => exact ⟨congrArg MemoryBank.trap hbank, rfl, hmret⟩
  case fetch => exact (State.atFetch_iff _).2 ⟨h.1, congrArg MemoryBank.trap hbank, rfl, hmret⟩
  case cycles => exact memoryStageCsr_cycles (s.afterExecute i) (countedCsr s.csr)
  case states =>
    have hregs : (if (memoryStage (s.afterExecute i)).writebackValueValid then
        RegFile.write s.regs (memoryStage (s.afterExecute i)).rd (memoryStage (s.afterExecute i)).writebackValue
      else s.regs) = (s.completed i).regs := by rw [hbank]; rfl
    have hcounted : countedCsr s.csr = { ((s.afterExecute i).addCycles 1).csr with
        cycles := ((s.afterExecute i).addCycles 1).csr.cycles + 1, instret := ((s.afterExecute i).addCycles 1).csr.instret + 1 } := by
      simp only [State.afterExecute, State.addCycles, countedCsr, BitVec.add_assoc]
      rfl
    have hcsr := (congrArg (memoryStageCsr (s.afterExecute i)) hcounted).trans (memoryStageCsr_counted (s.afterExecute i) _)
    exact congrArg Host.Outcome.next ((State.mk.injEq ..).mpr ⟨rfl, hregs, hcsr.symm, rfl, rfl, rfl, rfl, rfl, rfl, h.1.symm⟩)

end Execute

end Sys2Proof.Machine
end

section
/-!
SUPPORT. Each instruction's own meaning is what the stages leave of its word (40_pipeline.md R230 to R250): one lemma for each class of R142, and the
meanings of Machine/Integer.lean to Machine/System.lean over them.
-/
namespace Sys2Proof.Machine

open Sys2Proof

/-- What the stages leave of an instruction that Decode lets through: the exception of its M slot, or its retirement. -/
def State.stagesOutcome (s : State) (i : Instr) : State :=
  match memoryFault (s.executed i) with
  | some e => s.memoryTrap i e
  | none => s.completed i

theorem stagesOutcome_of_fault {s : State} {i : Instr} {e : Exn} (h : memoryFault (s.executed i) = some e) :
    s.stagesOutcome i = s.memoryTrap i e := by simp only [State.stagesOutcome, h]

theorem stagesOutcome_of_ok {s : State} {i : Instr} (h : memoryFault (s.executed i) = none) : s.stagesOutcome i = s.completed i := by
  simp only [State.stagesOutcome, h]

/-! ## The immediate of each class (R223) -/

section Immediate

variable {w : Word}

theorem immediateOf_of_opLui (h : opcodeOf w = opLui) : immediateOf w = upperImm (uImmOf w) := by simp only [immediateOf, h]; rfl
theorem immediateOf_of_opAuipc (h : opcodeOf w = opAuipc) : immediateOf w = upperImm (uImmOf w) := by simp only [immediateOf, h]; rfl
theorem immediateOf_of_opJal (h : opcodeOf w = opJal) : immediateOf w = jumpOffset (jImmOf w) := by simp only [immediateOf, h]; rfl
theorem immediateOf_of_opJalr (h : opcodeOf w = opJalr) : immediateOf w = imm12 (iImmOf w) := by simp only [immediateOf, h]; rfl
theorem immediateOf_of_opBranch (h : opcodeOf w = opBranch) : immediateOf w = branchOffset (bImmOf w) := by simp only [immediateOf, h]; rfl
theorem immediateOf_of_opLoad (h : opcodeOf w = opLoad) : immediateOf w = imm12 (iImmOf w) := by simp only [immediateOf, h]; rfl
theorem immediateOf_of_opStore (h : opcodeOf w = opStore) : immediateOf w = imm12 (sImmOf w) := by simp only [immediateOf, h]; rfl
theorem immediateOf_of_opOpImm (h : opcodeOf w = opOpImm) : immediateOf w = imm12 (iImmOf w) := by simp only [immediateOf, h]; rfl

end Immediate

/-! ## The Execute bank by opcode -/

section Executed

variable {s : State} {i : Instr} {op : BitVec 7} (ho : opcodeOf (encode i) = op)
include ho

theorem executed_signals : (s.executed i).signals =
    [isAluOpcode op, op == opStore, op == opLoad, op == opLui, op == opAuipc, op == opJal || op == opJalr, op == opSystem] := by
  subst ho; rfl

theorem executed_branchValid : (s.executed i).branchValid =
    ((op == opJal || op == opJalr) ||
      (op == opBranch && branchCondition (funct3Of (encode i)) (s.reg (rs1Of (encode i))) (s.reg (rs2Of (encode i))))) := by
  subst ho; rfl

theorem executed_branchAddress : (s.executed i).branchAddress =
    if (op == opJal || op == opJalr) && !(op == opJal) then s.reg (rs1Of (encode i)) + immediateOf (encode i)
    else s.fetchAddress + immediateOf (encode i) := by
  subst ho; rfl

theorem executed_aluResult : (s.executed i).aluResult =
    aluSelect (op.getLsbD 5) ((encode i).getLsbD 30) (funct3Of (encode i)) (s.reg (rs1Of (encode i))) (s.reg (rs2Of (encode i)))
      (immediateOf (encode i)) (shamtOf (encode i)) := by
  subst ho; rfl

end Executed

/-- The Execute bank that a meaning leaves is the stage's, where its transfer of control is the stage's (R234). -/
theorem executed_eq_of_not_taken {s : State} {i : Instr} (h : (s.executed i).branchValid = false) : s.executed i = s.executedBank i none :=
  congrArg (fun valid => { s.executed i with branchValid := valid }) h

theorem executed_eq_of_taken {s : State} {i : Instr} {target : Word} (h : (s.executed i).branchValid = true)
    (ht : (s.executed i).branchAddress = target) : s.executed i = s.executedBank i (some target) := by
  subst ht
  exact congrArg (fun valid => { s.executed i with branchValid := valid }) h

/-! ## A retirement, up to memory and the CSR bank -/

section Completed

variable {s : State} {i : Instr} {target : Option Word} (hf : memoryFault (s.executed i) = none) (hx : s.executed i = s.executedBank i target)
include hf hx

theorem completed_of_valid (hvalid : writebackValid (s.executed i) = true) {rd : RegIdx} (hrd : rdOf (encode i) = rd) {v : Word}
    (hv : writebackOf (s.afterExecute i) (s.executed i) = v) :
    s.completed i = { s.retireWriting i rd v target with
      csr := memoryStageCsr (s.afterExecute i) (countedCsr s.csr)
      mem := memoryStageMem (s.afterExecute i) } := by
  have hbank : memoryStage (s.afterExecute i) = ⟨v, true, rdOf (encode i), s.fetchAddress, false, 0, 0, 0⟩ := by
    rw [memoryStage_of_ok (s := s.afterExecute i) hf, ← hv, ← hvalid]; rfl
  have hregs : (s.completed i).regs = RegFile.write s.regs rd v := by
    rw [← hrd, ← hv]; exact if_pos hvalid
  exact (State.mk.injEq ..).mpr ⟨rfl, hregs, rfl, rfl, rfl, rfl, hx, hbank, rfl, rfl⟩

theorem completed_of_invalid (hvalid : writebackValid (s.executed i) = false) (hv : writebackOf (s.afterExecute i) (s.executed i) = 0) :
    s.completed i = { s.retire i none target with
      csr := memoryStageCsr (s.afterExecute i) (countedCsr s.csr)
      mem := memoryStageMem (s.afterExecute i) } := by
  have hbank : memoryStage (s.afterExecute i) = ⟨0, false, rdOf (encode i), s.fetchAddress, false, 0, 0, 0⟩ := by
    rw [memoryStage_of_ok (s := s.afterExecute i) hf, ← hv, ← hvalid]; rfl
  have hregs : (s.completed i).regs = s.regs := if_neg (by rw [hvalid]; decide)
  exact (State.mk.injEq ..).mpr ⟨rfl, hregs, rfl, rfl, rfl, rfl, hx, hbank, rfl, rfl⟩

end Completed

/-! ## The classes -/

section Classes

variable {s : State} {i : Instr} {rd : RegIdx}

/-- A class that is no load, store or CSR access raises nothing in its M slot (R241). -/
theorem memoryFault_of_signals {x : ExecuteBank} {alu lui auipc jump : Bool} (h : x.signals = [alu, false, false, lui, auipc, jump, false]) :
    memoryFault x = none := by
  obtain ⟨-, hstore, hload, -, -, -, hsystem⟩ := ExecuteBank.signals_eq_iff.1 h
  simp [memoryFault, hstore, hload, hsystem]

theorem stagesOutcome_writing {alu lui auipc jump : Bool} (hsig : (s.executed i).signals = [alu, false, false, lui, auipc, jump, false])
    (hvalid : (alu || lui || jump || auipc) = true) (hrd : rdOf (encode i) = rd) {v : Word}
    (hv : writebackOf (s.afterExecute i) (s.executed i) = v) {target : Option Word} (hx : s.executed i = s.executedBank i target) :
    s.stagesOutcome i = s.retireWriting i rd v target := by
  obtain ⟨hal, hst, hld, hlu, hau, hju, hsy⟩ := ExecuteBank.signals_eq_iff.1 hsig
  have hf := memoryFault_of_signals hsig
  have hvalid' : writebackValid (s.executed i) = true := by simpa [writebackValid, hal, hld, hlu, hau, hju, hsy] using hvalid
  rw [stagesOutcome_of_ok hf, completed_of_valid hf hx hvalid' hrd hv, memoryStageMem_of_not_store (s := s.afterExecute i) hst,
    memoryStageCsr_of_not_system (s := s.afterExecute i) _ hsy]
  rfl

theorem stagesOutcome_plain (hsig : (s.executed i).signals = [false, false, false, false, false, false, false]) {target : Option Word}
    (hx : s.executed i = s.executedBank i target) : s.stagesOutcome i = s.retire i none target := by
  obtain ⟨hal, hst, hld, hlu, hau, hju, hsy⟩ := ExecuteBank.signals_eq_iff.1 hsig
  have hf := memoryFault_of_signals hsig
  have hvalid : writebackValid (s.executed i) = false := by simp [writebackValid, hal, hld, hlu, hau, hju, hsy]
  rw [stagesOutcome_of_ok hf, completed_of_invalid hf hx hvalid (writebackOf_of_signals hsig),
    memoryStageMem_of_not_store (s := s.afterExecute i) hst, memoryStageCsr_of_not_system (s := s.afterExecute i) _ hsy]
  rfl

section Access

variable {rs1 : RegIdx} {imm : BitVec 12} {w : Width} (hw : widthOf (s.executed i).funct3 = w)
  (hea : accessAddress (s.executed i) = s.effectiveAddress rs1 imm) (hx : s.executed i = s.executedBank i none)
include hw hea hx

theorem stagesOutcome_load (hsig : (s.executed i).signals = [false, false, true, false, false, false, false])
    {unsigned : Bool} (hu : (s.executed i).funct3.getLsbD 2 = unsigned) (hrd : rdOf (encode i) = rd) :
    s.stagesOutcome i = s.load i rd rs1 imm w unsigned := by
  obtain ⟨-, hst, hld, -, -, -, hsy⟩ := ExecuteBank.signals_eq_iff.1 hsig
  cases hacc : accessFault w (s.effectiveAddress rs1 imm) with
  | some f =>
    cases f with
    | misaligned =>
      have hf : memoryFault (s.executed i) = some .loadAddressMisaligned := by simp [memoryFault, hld, hw, hea, hacc]
      simp only [stagesOutcome_of_fault hf, State.load, hacc]
    | unmapped =>
      have hf : memoryFault (s.executed i) = some .loadAccessFault := by simp [memoryFault, hld, hw, hea, hacc]
      simp only [stagesOutcome_of_fault hf, State.load, hacc]
  | none =>
    have hf : memoryFault (s.executed i) = none := by simp [memoryFault, hld, hw, hea, hacc]
    have hvalid : writebackValid (s.executed i) = true := by simp [writebackValid, hld]
    have hv := writebackOf_of_signals (s := s.afterExecute i) hsig
    simp only [hw, hu, hea] at hv
    rw [stagesOutcome_of_ok hf, completed_of_valid hf hx hvalid hrd hv, memoryStageMem_of_not_store (s := s.afterExecute i) hst,
      memoryStageCsr_of_not_system (s := s.afterExecute i) _ hsy]
    simp only [State.load, hacc]
    rfl

theorem stagesOutcome_store (hsig : (s.executed i).signals = [false, true, false, false, false, false, false]) {rs2 : RegIdx}
    (hrs2 : (s.executed i).rs2 = s.reg rs2) : s.stagesOutcome i = s.store i rs2 rs1 imm w := by
  obtain ⟨hal, hst, hld, hlu, hau, hju, hsy⟩ := ExecuteBank.signals_eq_iff.1 hsig
  cases hacc : accessFault w (s.effectiveAddress rs1 imm) with
  | some f =>
    cases f with
    | misaligned =>
      have hf : memoryFault (s.executed i) = some .storeAMOAddressMisaligned := by simp [memoryFault, hst, hld, hw, hea, hacc]
      simp only [stagesOutcome_of_fault hf, State.store, hacc]
    | unmapped =>
      have hf : memoryFault (s.executed i) = some .storeAMOAccessFault := by simp [memoryFault, hst, hld, hw, hea, hacc]
      simp only [stagesOutcome_of_fault hf, State.store, hacc]
  | none =>
    have hf : memoryFault (s.executed i) = none := by simp [memoryFault, hst, hw, hea, hacc]
    have hvalid : writebackValid (s.executed i) = false := by simp [writebackValid, hal, hld, hlu, hau, hju, hsy]
    have hmem : memoryStageMem (s.afterExecute i) = busWrite s.cfg s.mem w (s.effectiveAddress rs1 imm) (s.reg rs2) := by
      rw [memoryStageMem_of_store (s := s.afterExecute i) hst hf, ← hw, ← hea, ← hrs2]; rfl
    rw [stagesOutcome_of_ok hf, completed_of_invalid hf hx hvalid (writebackOf_of_signals hsig), hmem,
      memoryStageCsr_of_not_system (s := s.afterExecute i) _ hsy]
    simp only [State.store, hacc]
    rfl

end Access

theorem stagesOutcome_csr {a : CsrAddr} {field : RegIdx} {f3 : BitVec 3} {read write : Bool} {new : Word → Word}
    (he : encode i = iWord a field f3 rd opSystem) (hr : csrShouldRead f3 rd = read) (hw : csrShouldWrite f3 field = write)
    (hnew : ∀ old, csrNewValue f3 old (if f3.getLsbD 2 then csrImm field else s.reg field) = new old) :
    s.stagesOutcome i = s.csrAccess i rd a read write new := by
  have ho : opcodeOf (encode i) = opSystem := by rw [he, opcodeOf_iWord]
  have hsig : (s.executed i).signals = [false, false, false, false, false, false, true] := executed_signals ho
  obtain ⟨-, hst, hld, -, -, -, hsy⟩ := ExecuteBank.signals_eq_iff.1 hsig
  have haddr : (s.executed i).csrAddress = a := (congrArg csrOf he).trans (csrOf_iWord ..)
  have hf3 : (s.executed i).funct3 = f3 := (congrArg funct3Of he).trans (funct3Of_iWord ..)
  have hrd : rdOf (encode i) = rd := (congrArg rdOf he).trans (rdOf_iWord ..)
  have hrs1 : rs1Of (encode i) = field := (congrArg rs1Of he).trans (rs1Of_iWord ..)
  have hwrite : (s.executed i).csrShouldWrite = write := by rw [← hw, ← hf3, ← hrs1]; rfl
  have hread : (s.executed i).csrShouldRead = read := by rw [← hr, ← hf3, ← hrd]; rfl
  have hsource : (s.executed i).csrSource = if f3.getLsbD 2 then csrImm field else s.reg field := by rw [← hf3, ← hrs1]; rfl
  have hcheck : memoryFault (s.executed i) = if csrAccessOk a write then none else some .illegalInstruction := by
    rw [← haddr, ← hwrite]
    simp [memoryFault, hst, hld, hsy]
  cases hok : csrAccessOk a write with
  | false =>
    rw [hok] at hcheck
    rw [stagesOutcome_of_fault hcheck, State.csrAccess_of_bad hok]
  | true =>
    rw [hok] at hcheck
    have hf : memoryFault (s.executed i) = none := hcheck
    have hvalid : writebackValid (s.executed i) = true := by simp [writebackValid, hsy]
    have hold : csrOld (s.afterExecute i).csr (s.executed i) = if read then csrRead s.csrInMemoryCycle a else 0 := by
      rw [← hread, ← haddr]; rfl
    have hx := executed_eq_of_not_taken (s := s) (executed_branchValid ho)
    rw [stagesOutcome_of_ok hf, completed_of_valid hf hx hvalid hrd ((writebackOf_of_signals hsig).trans hold),
      memoryStageMem_of_not_store (s := s.afterExecute i) hst, State.csrAccess_of_ok hok]
    cases write with
    | false => rw [memoryStageCsr_of_no_write (s := s.afterExecute i) _ hwrite]; rfl
    | true =>
      rw [memoryStageCsr_of_write (s := s.afterExecute i) _ hf hsy hwrite, show (s.afterExecute i).exBank = s.executed i from rfl, hold, haddr, hf3,
        hsource, hnew]
      rfl

end Classes

/-! ## The classes by format -/

section Formats

variable {s : State} {i : Instr} {rd rs1 rs2 : RegIdx} {f3 : BitVec 3}

theorem rWord_getLsbD_30 (f7 : BitVec 7) (rs2 rs1 : RegIdx) (f3 : BitVec 3) (rd : RegIdx) (op : BitVec 7) :
    (rWord f7 rs2 rs1 f3 rd op).getLsbD 30 = f7.getLsbD 5 := by
  simp only [rWord, BitVec.getLsbD_append]
  simp

theorem stagesOutcome_alu (ho : opcodeOf (encode i) = opOp ∨ opcodeOf (encode i) = opOpImm) (hrd : rdOf (encode i) = rd) {v : Word}
    (hv : (s.executed i).aluResult = v) : s.stagesOutcome i = s.retireWriting i rd v none := by
  obtain ho | ho := ho
  all_goals
    have hsig := executed_signals (s := s) ho
    exact stagesOutcome_writing hsig rfl hrd ((writebackOf_of_signals hsig).trans hv) (executed_eq_of_not_taken (executed_branchValid ho))

/-- Under OP-IMM the second operand is the immediate, and bit 30 counts in a right shift alone (R230, R231). -/
theorem stagesOutcome_iWord_alu {imm : BitVec 12} (he : encode i = iWord imm rs1 f3 rd opOpImm) {v : Word}
    (hv : ∀ alt b shamt, aluSelect false alt f3 (s.reg rs1) b (imm12 imm) shamt = v) : s.stagesOutcome i = s.retireWriting i rd v none := by
  have ho : opcodeOf (encode i) = opOpImm := by rw [he, opcodeOf_iWord]
  refine stagesOutcome_alu (.inr ho) (by rw [he, rdOf_iWord]) ?_
  rw [executed_aluResult ho, immediateOf_of_opOpImm ho, he, funct3Of_iWord, rs1Of_iWord, iImmOf_iWord]
  exact hv _ _ _

/-- `rs2` is the second register under OP and the amount of a shift under OP-IMM. -/
theorem stagesOutcome_rWord_alu {f7 op : BitVec 7} (hop : op = opOp ∨ op = opOpImm) (he : encode i = rWord f7 rs2 rs1 f3 rd op) {v : Word}
    (hv : ∀ imm, aluSelect (op.getLsbD 5) (f7.getLsbD 5) f3 (s.reg rs1) (s.reg rs2) imm rs2 = v) :
    s.stagesOutcome i = s.retireWriting i rd v none := by
  have ho : opcodeOf (encode i) = op := by rw [he, opcodeOf_rWord]
  refine stagesOutcome_alu (ho.symm ▸ hop) (by rw [he, rdOf_rWord]) ?_
  rw [executed_aluResult ho, ← hv (immediateOf (encode i)), he, rWord_getLsbD_30, funct3Of_rWord, rs1Of_rWord, rs2Of_rWord, shamtOf_rWord]

theorem stagesOutcome_bWord {offset : BitVec 13} {taken : Bool} (hoffset : evenOffset offset = true)
    (he : encode i = bWord offset rs2 rs1 f3 opBranch) (htaken : branchCondition f3 (s.reg rs1) (s.reg rs2) = taken) :
    s.stagesOutcome i = s.branch i taken offset := by
  have ho : opcodeOf (encode i) = opBranch := by rw [he, opcodeOf_bWord]
  have hvalid : (s.executed i).branchValid = taken := by
    rw [executed_branchValid ho, he, funct3Of_bWord, rs1Of_bWord, rs2Of_bWord, htaken]; rfl
  have haddress : (s.executed i).branchAddress = s.fetchAddress + branchOffset offset := by
    rw [executed_branchAddress ho, immediateOf_of_opBranch ho, he, bImmOf_bWord _ _ _ _ _ hoffset]; rfl
  cases taken with
  | false => exact stagesOutcome_plain (executed_signals ho) (executed_eq_of_not_taken hvalid)
  | true => exact stagesOutcome_plain (executed_signals ho) (executed_eq_of_taken hvalid haddress)

theorem stagesOutcome_iWord_load {imm : BitVec 12} {w : Width} {unsigned : Bool} (he : encode i = iWord imm rs1 f3 rd opLoad) (hw : widthOf f3 = w)
    (hu : f3.getLsbD 2 = unsigned) : s.stagesOutcome i = s.load i rd rs1 imm w unsigned := by
  have ho : opcodeOf (encode i) = opLoad := by rw [he, opcodeOf_iWord]
  have hf3 : (s.executed i).funct3 = f3 := (congrArg funct3Of he).trans (funct3Of_iWord ..)
  have hea : accessAddress (s.executed i) = s.effectiveAddress rs1 imm := by
    show immediateOf (encode i) + s.reg (rs1Of (encode i)) = s.reg rs1 + imm12 imm
    rw [immediateOf_of_opLoad ho, he, iImmOf_iWord, rs1Of_iWord, BitVec.add_comm]
  exact stagesOutcome_load ((congrArg widthOf hf3).trans hw) hea (executed_eq_of_not_taken (executed_branchValid ho)) (executed_signals ho)
    ((congrArg (BitVec.getLsbD · 2) hf3).trans hu) (by rw [he, rdOf_iWord])

theorem stagesOutcome_sWord {imm : BitVec 12} {w : Width} (he : encode i = sWord imm rs2 rs1 f3 opStore) (hw : widthOf f3 = w) :
    s.stagesOutcome i = s.store i rs2 rs1 imm w := by
  have ho : opcodeOf (encode i) = opStore := by rw [he, opcodeOf_sWord]
  have hf3 : (s.executed i).funct3 = f3 := (congrArg funct3Of he).trans (funct3Of_sWord ..)
  have hrs2 : (s.executed i).rs2 = s.reg rs2 := congrArg s.reg ((congrArg rs2Of he).trans (rs2Of_sWord ..))
  have hea : accessAddress (s.executed i) = s.effectiveAddress rs1 imm := by
    show immediateOf (encode i) + s.reg (rs1Of (encode i)) = s.reg rs1 + imm12 imm
    rw [immediateOf_of_opStore ho, he, sImmOf_sWord, rs1Of_sWord, BitVec.add_comm]
  exact stagesOutcome_store ((congrArg widthOf hf3).trans hw) hea (executed_eq_of_not_taken (executed_branchValid ho)) (executed_signals ho) hrs2

theorem stagesOutcome_lui (imm : BitVec 20) : s.stagesOutcome (.lui rd imm) = s.retireWriting (.lui rd imm) rd (upperImm imm) none := by
  have ho : opcodeOf (encode (.lui rd imm)) = opLui := opcodeOf_uWord ..
  have hsig := executed_signals (s := s) ho
  have hv : immediateOf (encode (.lui rd imm)) = upperImm imm := (immediateOf_of_opLui ho).trans (congrArg upperImm (uImmOf_uWord ..))
  exact stagesOutcome_writing hsig rfl (rdOf_uWord ..) ((writebackOf_of_signals hsig).trans hv) (executed_eq_of_not_taken (executed_branchValid ho))

theorem stagesOutcome_auipc (imm : BitVec 20) :
    s.stagesOutcome (.auipc rd imm) = s.retireWriting (.auipc rd imm) rd (s.fetchAddress + upperImm imm) none := by
  have ho : opcodeOf (encode (.auipc rd imm)) = opAuipc := opcodeOf_uWord ..
  have hsig := executed_signals (s := s) ho
  have himm : immediateOf (encode (.auipc rd imm)) = upperImm imm := (immediateOf_of_opAuipc ho).trans (congrArg upperImm (uImmOf_uWord ..))
  have hv : (s.executed (.auipc rd imm)).branchAddress = s.fetchAddress + upperImm imm := by
    rw [executed_branchAddress ho, himm]; rfl
  exact stagesOutcome_writing hsig rfl (rdOf_uWord ..) ((writebackOf_of_signals hsig).trans hv) (executed_eq_of_not_taken (executed_branchValid ho))

theorem stagesOutcome_jal {offset : BitVec 21} (hoffset : evenOffset offset = true) :
    s.stagesOutcome (.jal rd offset) =
      s.retireWriting (.jal rd offset) rd (s.fetchAddress + 4) (some (s.fetchAddress + jumpOffset offset)) := by
  have ho : opcodeOf (encode (.jal rd offset)) = opJal := opcodeOf_jWord ..
  have hsig := executed_signals (s := s) ho
  have haddress : (s.executed (.jal rd offset)).branchAddress = s.fetchAddress + jumpOffset offset := by
    rw [executed_branchAddress ho, immediateOf_of_opJal ho, encode, jImmOf_jWord _ _ _ hoffset]; rfl
  exact stagesOutcome_writing hsig rfl (rdOf_jWord ..) (writebackOf_of_signals hsig) (executed_eq_of_taken (executed_branchValid ho) haddress)

theorem stagesOutcome_jalr (imm : BitVec 12) :
    s.stagesOutcome (.jalr rd rs1 imm) =
      s.retireWriting (.jalr rd rs1 imm) rd (s.fetchAddress + 4) (some (s.reg rs1 + imm12 imm)) := by
  have ho : opcodeOf (encode (.jalr rd rs1 imm)) = opJalr := opcodeOf_iWord ..
  have hsig := executed_signals (s := s) ho
  have haddress : (s.executed (.jalr rd rs1 imm)).branchAddress = s.reg rs1 + imm12 imm := by
    rw [executed_branchAddress ho, immediateOf_of_opJalr ho, encode, iImmOf_iWord, rs1Of_iWord]; rfl
  exact stagesOutcome_writing hsig rfl (rdOf_iWord ..) (writebackOf_of_signals hsig) (executed_eq_of_taken (executed_branchValid ho) haddress)

end Formats

/-- The meaning of each of the 44 instructions but MRET is the outcome of its stages. -/
theorem exec_eq_stagesOutcome (s : State) {i : Instr} (hwf : i.wf = true) (ha : i.admitted = true) (hi : i ≠ .mret) :
    exec i s = .next (s.stagesOutcome i) := by
  cases i with
  | mret => exact absurd rfl hi
  | ecall | ebreak | wfi | sret | fence | fenceI => cases ha
  | lui => exact congrArg Host.Outcome.next (stagesOutcome_lui _).symm
  | auipc => exact congrArg Host.Outcome.next (stagesOutcome_auipc _).symm
  | jal => exact congrArg Host.Outcome.next (stagesOutcome_jal hwf).symm
  | jalr => exact congrArg Host.Outcome.next (stagesOutcome_jalr _).symm
  | beq | bne | blt | bge | bltu | bgeu =>
    refine congrArg Host.Outcome.next (Eq.symm ?_)
    exact stagesOutcome_bWord hwf rfl rfl
  | lb | lh | lw | lbu | lhu =>
    refine congrArg Host.Outcome.next (Eq.symm ?_)
    exact stagesOutcome_iWord_load rfl rfl rfl
  | sb | sh | sw =>
    refine congrArg Host.Outcome.next (Eq.symm ?_)
    exact stagesOutcome_sWord rfl rfl
  | addi | slti | sltiu | xori | ori | andi => exact congrArg Host.Outcome.next (stagesOutcome_iWord_alu rfl fun _ _ _ => rfl).symm
  | slli | srli | srai => exact congrArg Host.Outcome.next (stagesOutcome_rWord_alu (.inr rfl) rfl fun _ => rfl).symm
  | add | sub | sll | slt | sltu | xor | srl | sra | or | and =>
    exact congrArg Host.Outcome.next (stagesOutcome_rWord_alu (.inl rfl) rfl fun _ => rfl).symm
  | csrrw | csrrs | csrrc | csrrwi | csrrsi | csrrci =>
    refine congrArg Host.Outcome.next (Eq.symm ?_)
    exact stagesOutcome_csr rfl rfl rfl fun _ => rfl

end Sys2Proof.Machine
end

section
/-!
The obligation that ties the two levels together.
-/
namespace Sys2Proof.Machine

open Sys2Proof

/-- The fetched word of a legal Fetch slot: the word of an admitted instruction, in flight as that instruction's. -/
theorem fetched_of_decodeFault_none {s : State} (hd : decodeFault (fetchStage s) = none) :
    ∃ i, decode (encode i) = .ok i ∧ i.admitted = true ∧ fetchStage s = s.fetchedBank i := by
  obtain ⟨i, hdecode, ha⟩ := (legalIffAdmitted _).1 (legal_of_decodeFault_none hd)
  obtain ⟨hw, -⟩ := encode_of_decode hdecode
  exact ⟨i, hw.symm ▸ hdecode, ha, congrArg (FetchBank.mk _ _) hw.symm⟩

theorem step_of_fetchedBank {s : State} {i : Instr} (hf : s.atFetch = true) (hd : decodeFault (fetchStage s) = none)
    (hword : fetchStage s = s.fetchedBank i) (hdecode : decode (encode i) = .ok i) : step s = exec i s := by
  have ha : s.fetchAddress.toNat % 4 = 0 := by
    by_contra ha
    cases hd.symm.trans (decodeFault_of_misaligned (f := fetchStage s) ha)
  have hm : mapped s.fetchAddress = true := by
    by_contra hm
    cases hd.symm.trans (decodeFault_of_unmapped (f := fetchStage s) ha (Bool.eq_false_of_not_eq_true hm))
  have hfetched := fetchStage_instruction_of_ok ((accessFault_word_none_iff _).2 ⟨ha, hm⟩)
  have hencode : s.wordAt s.fetchAddress = encode i := hfetched.symm.trans (congrArg FetchBank.instruction hword)
  rw [step_of_fetched hf ha hm, hencode, runWord, hdecode]

/-- Settles O34: Decode's exception, MRET, an exception of the M slot, or a retirement. -/
theorem stepIsItsCycles : Obligations.StepIsItsCycles := by
  intro s hf
  have hslot := (State.atFetch_iff s).1 hf
  suffices h : ∃ t, step s = .next t ∧ s.RunsInstruction t by
    obtain ⟨t, hstep, k, ⟨hrun, hbetween⟩, hend, hcycles⟩ := h
    exact ⟨k, t, hstep, hrun, hend, hcycles, hbetween⟩
  cases hd : decodeFault (fetchStage s) with
  | some p => exact ⟨_, step_of_decodeFault (e := p.1) (tval := p.2) hf hd, runsInstruction_of_decodeFault hslot hd⟩
  | none =>
    obtain ⟨i, hdecode, ha, hword⟩ := fetched_of_decodeFault_none hd
    have hstep := step_of_fetchedBank hf hd hword hdecode
    by_cases hi : i = .mret
    · subst hi
      exact ⟨_, hstep, runsInstruction_mret hslot hd (by rw [hword]; rfl)⟩
    · have hne := encode_ne_mretWord hdecode hi
      refine ⟨_, hstep.trans (exec_eq_stagesOutcome s (encode_of_decode hdecode).2 ha hi), ?_⟩
      cases hm : memoryFault (s.executed i) with
      | some e => rw [stagesOutcome_of_fault hm]; exact runsInstruction_of_memoryFault hslot hword hd hne hm
      | none => rw [stagesOutcome_of_ok hm]; exact runsInstruction_completed hslot hword hd hne hm

end Sys2Proof.Machine
end
